-- ==== Sys2Proof/Word.lean ====
section
/-!
DEFINITION. The words ARQ-MUX is described in: bytes, the 32-bit command and response words (rules
R91, R94) and ticks of the time input (rule R76). Nothing else of the block is a bit vector: counts,
lengths and slot indices are natural numbers, and states are named (rule R8: nothing is signed).
-/

namespace Sys2Proof

/-- A byte: 8 bits (rule R8). -/
abbrev Byte := BitVec 8

/-- A command or response word: 32 bits (rules R91, R94). -/
abbrev Word32 := BitVec 32

/-- A tick count. `TIME_BITS` is a parameter between 8 and 64 (rule R6): a time is kept in 64 bits and
only its low `TIME_BITS` bits exist (`clip` in Machine/Flags.lean; log entry 3). -/
abbrev Time := BitVec 64

end Sys2Proof
end

