-- ==== Sys2Proof/Syntax.lean ====
section
/-!
DEFINITION. The syntax of ARQ-MUX: the two frame tags and the one inductive `Instr`, with one
constructor for each row of spec/opcode_table.json. An "instruction" of this block is a host command
(rule R92) or the kind of a received frame (rule R103) (decision D29).
-/

namespace Sys2Proof

/-- `CTYPE`, the channel-message-type tag (rule R100). -/
inductive CType
  | noop
  | connreq
  | discreq
  | reset
  deriving DecidableEq, Repr, Inhabited

/-- `ATYPE`, the ARQ-message-type tag (rule R101). The sequence bit is `true` for sequence 1. -/
inductive AType
  | data (seq : Bool)
  | ack (seq : Bool)
  deriving DecidableEq, Repr, Inhabited

/-- One constructor per row of the opcode table. A command carries the fields it takes (rules R92,
R93); the fields a command ignores are not operands (rule R91). A frame kind carries every header
byte its row leaves free, and the payload. -/
inductive Instr
  -- host commands (rule R92)
  | nop
  | poll
  | openChan (ch : Byte)
  | closeChan (ch : Byte)
  | connect (ch : Byte) (seconds : BitVec 16)
  | disconnect (ch : Byte)
  | write (ch : Byte) (v : Byte)
  | flush (ch : Byte)
  | read (ch : Byte)
  | peek (ch : Byte)
  | avail (ch : Byte)
  | status (ch : Byte)
  | linkstat
  -- reserved opcodes (rule R234); `lo` is the part of the opcode that the row leaves free
  | reserved0D
  | reserved0E0F (lo : BitVec 1)
  | reserved101F (lo : BitVec 4)
  | reserved203F (lo : BitVec 5)
  | reserved407F (lo : BitVec 6)
  | reserved80FF (lo : BitVec 7)
  -- received frames with a reserved tag bit (rule R104): the three header bytes as received
  | frameReservedC2 (chan ctype atype : Byte) (pay : List Byte)
  | frameReservedC3 (chan ctype atype : Byte) (pay : List Byte)
  | frameReservedC4 (chan ctype atype : Byte) (pay : List Byte)
  | frameReservedC5 (chan ctype atype : Byte) (pay : List Byte)
  | frameReservedC6 (chan ctype atype : Byte) (pay : List Byte)
  | frameReservedC7 (chan ctype atype : Byte) (pay : List Byte)
  | frameReservedA2 (chan ctype atype : Byte) (pay : List Byte)
  | frameReservedA3 (chan ctype atype : Byte) (pay : List Byte)
  | frameReservedA4 (chan ctype atype : Byte) (pay : List Byte)
  | frameReservedA5 (chan ctype atype : Byte) (pay : List Byte)
  | frameReservedA6 (chan ctype atype : Byte) (pay : List Byte)
  | frameReservedA7 (chan ctype atype : Byte) (pay : List Byte)
  -- received frame kinds (rule R103)
  | frameReset (chan : Byte) (atype : AType) (pay : List Byte)
  | ack0 (chan : Byte) (ctype : CType) (pay : List Byte)
  | ack1 (chan : Byte) (ctype : CType) (pay : List Byte)
  | data0Noop (chan : Byte) (pay : List Byte)
  | data1Noop (chan : Byte) (pay : List Byte)
  | data0Connreq (chan : Byte) (pay : List Byte)
  | data1Connreq (chan : Byte) (pay : List Byte)
  | data0Discreq (chan : Byte) (pay : List Byte)
  | data1Discreq (chan : Byte) (pay : List Byte)
  deriving DecidableEq, Repr

end Sys2Proof
end

