-- ==== Sys2Proof/Config/Reference.lean ====
section
/-!
DEFINITION. The reference codec and checksum REF of rule R109: RFC 4648 Base64 with strict decoding,
and CRC-16/CCITT-FALSE. The spec uses them for its test vectors only. The model never runs them: its
codec and checksum are the unconstrained parameters of Config.lean. They stand here to show that the
contract of rule R108 can be met, and so that the spec's vectors can be checked (log entry 14).
-/

namespace Sys2Proof.Reference

/-- The padding character `=`. -/
def pad : Byte := 0x3D

/-- The character of a 6-bit index (rule R109). -/
def charOf (k : Nat) : Byte :=
  if k < 26 then BitVec.ofNat 8 (65 + k)
  else if k < 52 then BitVec.ofNat 8 (97 + (k - 26))
  else if k < 62 then BitVec.ofNat 8 (48 + (k - 52))
  else if k = 62 then 0x2B
  else 0x2F

/-- The 6-bit index of a character; 0 for a character that has none (the strict decoder compares the
whole text afterwards). -/
def indexOf (c : Byte) : Nat :=
  let n := c.toNat
  if 65 ≤ n ∧ n ≤ 90 then n - 65
  else if 97 ≤ n ∧ n ≤ 122 then n - 97 + 26
  else if 48 ≤ n ∧ n ≤ 57 then n - 48 + 52
  else if n = 43 then 62
  else if n = 47 then 63
  else 0

/-- `ALPHABET` of REF: the 64 characters and `=`. -/
def alphabet (c : Byte) : Bool :=
  let n := c.toNat
  decide ((65 ≤ n ∧ n ≤ 90) ∨ (97 ≤ n ∧ n ≤ 122) ∨ (48 ≤ n ∧ n ≤ 57) ∨ n = 43 ∨ n = 47 ∨ n = 61)

/-- `Encode` of REF: each group of three raw bytes gives four characters, a last group of one or two
bytes is padded (rule R109). -/
def encode : List Byte → List Byte
  | [] => []
  | [a] => [charOf (a.toNat / 4), charOf (a.toNat % 4 * 16), pad, pad]
  | [a, b] =>
    [charOf (a.toNat / 4), charOf (a.toNat % 4 * 16 + b.toNat / 16), charOf (b.toNat % 16 * 4), pad]
  | a :: b :: c :: rest =>
    charOf (a.toNat / 4) :: charOf (a.toNat % 4 * 16 + b.toNat / 16) ::
      charOf (b.toNat % 16 * 4 + c.toNat / 64) :: charOf (c.toNat % 64) :: encode rest

/-- The bytes a well-formed text stands for; a text that is not well formed gives some bytes. -/
def unpack : List Byte → List Byte
  | a :: b :: c :: d :: rest =>
    let x := BitVec.ofNat 8 (indexOf a * 4 + indexOf b / 16)
    let y := BitVec.ofNat 8 (indexOf b % 16 * 16 + indexOf c / 4)
    let z := BitVec.ofNat 8 (indexOf c % 4 * 64 + indexOf d)
    if c = pad then [x] else if d = pad then [x, y] else x :: y :: z :: unpack rest
  | _ => []

/-- `Decode` of REF, the strict inverse: it fails unless the input is exactly `Encode(r)` for some
`r` (rule R109). -/
def decode (e : List Byte) : Option (List Byte) :=
  if encode (unpack e) = e then some (unpack e) else none

/-- One bit of CRC-16/CCITT-FALSE (rule R109). -/
def crcBit (c : BitVec 16) : BitVec 16 :=
  if c.msb then (c <<< 1) ^^^ 0x1021 else c <<< 1

/-- One byte of CRC-16/CCITT-FALSE: the byte enters at the top, then eight bits are shifted. -/
def crcByte (c : BitVec 16) (b : Byte) : BitVec 16 :=
  (List.range 8).foldl (fun c _ => crcBit c) (c ^^^ (b.setWidth 16 <<< 8))

/-- `Crc16` of REF (rule R109). -/
def crc16 (bs : List Byte) : BitVec 16 :=
  bs.foldl crcByte 0xFFFF

theorem indexOf_charOf : ∀ k < 64, indexOf (charOf k) = k := by decide

theorem charOf_ne_pad : ∀ k < 64, charOf k ≠ pad := by decide

theorem alphabet_charOf : ∀ k < 64, alphabet (charOf k) = true := by decide

theorem alphabet_printable (b : Byte) : alphabet b = true → 0x20 ≤ b.toNat ∧ b.toNat ≤ 0x7E := by
  simp only [alphabet, decide_eq_true_eq]
  omega

theorem length_encode (r : List Byte) : (encode r).length = 4 * ((r.length + 2) / 3) := by
  fun_induction encode r with
  | case1 => rfl
  | case2 a => simp
  | case3 a b => simp
  | case4 a b c rest ih => simp [ih]; omega

theorem alphabet_encode (r : List Byte) : ∀ b ∈ encode r, alphabet b = true := by
  have hp : alphabet pad = true := by decide
  fun_induction encode r with
  | case1 => simp
  | case2 a =>
    have := a.isLt
    simp [hp, alphabet_charOf _ (show a.toNat / 4 < 64 by omega),
      alphabet_charOf _ (show a.toNat % 4 * 16 < 64 by omega)]
  | case3 a b =>
    have := a.isLt
    have := b.isLt
    simp [hp, alphabet_charOf _ (show a.toNat / 4 < 64 by omega),
      alphabet_charOf _ (show a.toNat % 4 * 16 + b.toNat / 16 < 64 by omega),
      alphabet_charOf _ (show b.toNat % 16 * 4 < 64 by omega)]
  | case4 a b c rest ih =>
    have := a.isLt
    have := b.isLt
    have := c.isLt
    simp only [List.mem_cons]
    rintro x (rfl | rfl | rfl | rfl | hx)
    · exact alphabet_charOf _ (by omega)
    · exact alphabet_charOf _ (by omega)
    · exact alphabet_charOf _ (by omega)
    · exact alphabet_charOf _ (by omega)
    · exact ih x hx

theorem unpack_encode (r : List Byte) : unpack (encode r) = r := by
  fun_induction encode r with
  | case1 => rfl
  | case2 a =>
    have := a.isLt
    simp only [unpack, if_true, indexOf_charOf _ (show a.toNat / 4 < 64 by omega),
      indexOf_charOf _ (show a.toNat % 4 * 16 < 64 by omega), List.cons.injEq, and_true]
    apply BitVec.eq_of_toNat_eq
    simp only [BitVec.toNat_ofNat]
    omega
  | case3 a b =>
    have := a.isLt
    have := b.isLt
    simp only [unpack, charOf_ne_pad _ (show b.toNat % 16 * 4 < 64 by omega), if_false, if_true,
      indexOf_charOf _ (show a.toNat / 4 < 64 by omega),
      indexOf_charOf _ (show a.toNat % 4 * 16 + b.toNat / 16 < 64 by omega),
      indexOf_charOf _ (show b.toNat % 16 * 4 < 64 by omega), List.cons.injEq, and_true]
    refine ⟨?_, ?_⟩ <;> apply BitVec.eq_of_toNat_eq <;> simp only [BitVec.toNat_ofNat] <;> omega
  | case4 a b c rest ih =>
    have := a.isLt
    have := b.isLt
    have := c.isLt
    simp only [unpack, ih, charOf_ne_pad _ (show b.toNat % 16 * 4 + c.toNat / 64 < 64 by omega),
      charOf_ne_pad _ (show c.toNat % 64 < 64 by omega), if_false,
      indexOf_charOf _ (show a.toNat / 4 < 64 by omega),
      indexOf_charOf _ (show a.toNat % 4 * 16 + b.toNat / 16 < 64 by omega),
      indexOf_charOf _ (show b.toNat % 16 * 4 + c.toNat / 64 < 64 by omega),
      indexOf_charOf _ (show c.toNat % 64 < 64 by omega), List.cons.injEq, and_true]
    refine ⟨?_, ?_, ?_⟩ <;> apply BitVec.eq_of_toNat_eq <;> simp only [BitVec.toNat_ofNat] <;> omega

theorem decode_encode (r : List Byte) : decode (encode r) = some r := by
  simp [decode, unpack_encode]

theorem decode_rejects (e : List Byte)
    (h : e.length % 4 ≠ 0 ∨ ∃ b ∈ e, alphabet b = false) : decode e = none := by
  unfold decode
  split
  · rename_i he
    rcases h with h | ⟨b, hb, hna⟩
    · have := length_encode (unpack e)
      rw [he] at this
      omega
    · rw [← he] at hb
      simp [alphabet_encode _ b hb] at hna
  · rfl

end Sys2Proof.Reference
end

