-- ==== Sys2Proof/Config.lean ====
section
/-!
DEFINITION. The parameters of rule R6, with their constraints, and the values the spec leaves
unspecified. Every operation of the model takes a `Params` as an argument (rules R6, R43); the machine
itself runs on `Config.params`, an opaque constant of which nothing but the constraints is known. So a
statement about the machine holds for every parameter set that rule R6 admits.
-/

namespace Sys2Proof

/-- The parameters of rule R6 and the constraints the spec puts on them. The values given as defaults
are those of the reference configuration REF (rule R6, last column; rule R109): they name
`Params.ref` and witness that the constraints can be met, and no definition of the model uses them. -/
structure Params where
  /-- `NCHAN`: channel ids are `0 .. NCHAN-1`. -/
  nchan : Nat := 4
  /-- `MAXPAY`: the longest payload of a frame, in raw bytes. -/
  maxpay : Nat := 32
  /-- `NBUF`: the number of buffer slots. -/
  nbuf : Nat := 6
  /-- `RX_RESERVE`: the free slots a transmit-side acquisition leaves behind (rule R133). -/
  rxReserve : Nat := 2
  /-- `TIME_BITS`: the width of `NOW` and of every stored time. -/
  timeBits : Nat := 32
  /-- `TICK_HZ`: ticks of `NOW` per second. -/
  tickHz : Nat := 1000
  /-- `T_RETX`: the retransmission timeout, in ticks. -/
  tRetx : Nat := 200
  /-- `RETRY_MAX`: the retransmission ceiling; 0 is no ceiling. -/
  retryMax : Nat := 0
  /-- `T_DISC`: the disconnect timeout, in ticks. -/
  tDisc : Nat := 5000
  /-- `SOM`, the start-of-message byte. -/
  som : Byte := 0x01
  /-- `EOM`, the terminator byte. -/
  eom : Byte := 0x0A
  /-- `ALPHABET`: the bytes `Encode` may output. -/
  alphabet : Byte → Bool := Reference.alphabet
  /-- `Encode` (rule R108). -/
  encode : List Byte → List Byte := Reference.encode
  /-- `Decode` (rule R108); `none` is the decode failure. -/
  decode : List Byte → Option (List Byte) := Reference.decode
  /-- `Crc16` (rule R107): total and deterministic, nothing else is known of it. -/
  crc16 : List Byte → BitVec 16 := Reference.crc16
  /-- The unspecified contents of the payload bytes after the `k`-th hardware reset (rules R24, R280),
  by reset number and address. A free value. -/
  powerUpPay : Nat → Nat → Byte := fun _ _ => 0
  /-- The unspecified contents of `ACC` after the `k`-th hardware reset (rules R48, R280). A free
  value. -/
  powerUpAcc : Nat → Nat → Byte := fun _ _ => 0
  /-- The unspecified `BUF[s].chan` after the `k`-th hardware reset. A free value. -/
  powerUpChan : Nat → Nat → Byte := fun _ _ => 0
  /-- The unspecified `BUF[s].ctype` after the `k`-th hardware reset. A free value. -/
  powerUpCtype : Nat → Nat → CType := fun _ _ => .noop
  /-- The unspecified `BUF[s].atype` after the `k`-th hardware reset. A free value. -/
  powerUpAtype : Nat → Nat → AType := fun _ _ => .data false
  /-- The unspecified `BUF[s].len` after the `k`-th hardware reset. A free value, within the field's
  range (rule R21). -/
  powerUpLen : Nat → Nat → Nat := fun _ _ => 0
  nchan_pos : 1 ≤ nchan := by decide
  nchan_le : nchan ≤ 256 := by decide
  maxpay_pos : 1 ≤ maxpay := by decide
  maxpay_le : maxpay ≤ 255 := by decide
  rxReserve_lt : rxReserve < nbuf := by decide
  nbuf_le : nbuf ≤ 255 := by decide
  timeBits_ge : 8 ≤ timeBits := by decide
  timeBits_le : timeBits ≤ 64 := by decide
  tickHz_pos : 1 ≤ tickHz := by decide
  tickHz_lt : 65535 * tickHz < 2 ^ (timeBits - 1) := by decide
  tRetx_pos : 1 ≤ tRetx := by decide
  tRetx_lt : tRetx < 2 ^ (timeBits - 1) := by decide
  retryMax_le : retryMax ≤ 255 := by decide
  tDisc_lt : tDisc < 2 ^ (timeBits - 1) := by decide
  som_ne_eom : som ≠ eom := by decide
  som_alphabet : alphabet som = false := by decide
  eom_alphabet : alphabet eom = false := by decide
  /-- `ALPHABET` is printable ASCII (rule R6). -/
  alphabet_printable : ∀ b, alphabet b = true → 0x20 ≤ b.toNat ∧ b.toNat ≤ 0x7E := by
    exact Reference.alphabet_printable
  /-- Rule R108 (i): the fixed expansion ratio. -/
  length_encode : ∀ r, (encode r).length = 4 * ((r.length + 2) / 3) := by
    exact Reference.length_encode
  /-- Rule R108 (i): every output byte is in `ALPHABET`. -/
  alphabet_encode : ∀ r, ∀ b ∈ encode r, alphabet b = true := by
    exact Reference.alphabet_encode
  /-- Rule R108 (iii): the round trip. -/
  decode_encode : ∀ r, decode (encode r) = some r := by
    exact Reference.decode_encode
  /-- Rule R108 (iv): what `Decode` must reject. -/
  decode_rejects : ∀ e, (e.length % 4 ≠ 0 ∨ ∃ b ∈ e, alphabet b = false) → decode e = none := by
    exact Reference.decode_rejects
  powerUpLen_le : ∀ k s, powerUpLen k s ≤ maxpay := by
    intro _ _; decide
  deriving Inhabited

/-- The reference configuration REF of rule R6. Only tests use it
(log entry 14). -/
def Params.ref : Params := {}

/-- `ENC_MAX`, the longest encoded frame, and the accumulator's capacity `ACC_CAP` (rules R6, R35). -/
def Params.accCap (P : Params) : Nat := 4 * ((P.maxpay + 5 + 2) / 3)

/-- The parameters of this machine. OPEN (rule R6): the constant has no body, so nothing beyond the
constraints of `Params` can be proved of it (log entry 1). -/
opaque Config.params : Params

end Sys2Proof
end

