-- ==== Sys2Proof/WellFormed.lean ====
section
/-!
DEFINITION. Which terms of `Instr` are instructions. A command's fields fill their bits, so every
command term is well formed. A frame's payload is bounded (rule R98) and its header must be one its
row stands for: the rows overlap, and the first that matches wins (rules R103, R104).
-/

namespace Sys2Proof

/-- A payload has at most `MAXPAY` bytes (rules R21, R98). -/
def payloadFits (P : Params) (pay : List Byte) : Bool := decide (pay.length ≤ P.maxpay)

/-- The lowest reserved bit that is set in a tag byte is bit `k`; bits `[7:2]` are the reserved ones
(rule R104). The twelve FRAME.RESERVED rows overlap; the row of the first set bit stands for a header,
in the table's order (log entry 13). -/
def firstReservedBit (k : Nat) (b : Byte) : Bool :=
  b.getLsbD k && (List.range k).all fun j => decide (j < 2) || !b.getLsbD j

/-- Bits `[7:2]` of a tag byte are zero (rule R98). -/
def reservedClear (b : Byte) : Bool := decide (b.toNat < 4)

/-- A term that stands for an instruction of the block. -/
def Instr.wellFormed (P : Params) : Instr → Bool
  | .nop | .poll | .openChan _ | .closeChan _ | .connect _ _ | .disconnect _ | .write _ _
  | .flush _ | .read _ | .peek _ | .avail _ | .status _ | .linkstat => true
  | .reserved0D | .reserved0E0F _ | .reserved101F _ | .reserved203F _ | .reserved407F _
  | .reserved80FF _ => true
  | .frameReservedC2 _ ct _ pay => payloadFits P pay && firstReservedBit 2 ct
  | .frameReservedC3 _ ct _ pay => payloadFits P pay && firstReservedBit 3 ct
  | .frameReservedC4 _ ct _ pay => payloadFits P pay && firstReservedBit 4 ct
  | .frameReservedC5 _ ct _ pay => payloadFits P pay && firstReservedBit 5 ct
  | .frameReservedC6 _ ct _ pay => payloadFits P pay && firstReservedBit 6 ct
  | .frameReservedC7 _ ct _ pay => payloadFits P pay && firstReservedBit 7 ct
  | .frameReservedA2 _ ct aty pay => payloadFits P pay && (reservedClear ct && firstReservedBit 2 aty)
  | .frameReservedA3 _ ct aty pay => payloadFits P pay && (reservedClear ct && firstReservedBit 3 aty)
  | .frameReservedA4 _ ct aty pay => payloadFits P pay && (reservedClear ct && firstReservedBit 4 aty)
  | .frameReservedA5 _ ct aty pay => payloadFits P pay && (reservedClear ct && firstReservedBit 5 aty)
  | .frameReservedA6 _ ct aty pay => payloadFits P pay && (reservedClear ct && firstReservedBit 6 aty)
  | .frameReservedA7 _ ct aty pay => payloadFits P pay && (reservedClear ct && firstReservedBit 7 aty)
  | .frameReset _ _ pay => payloadFits P pay
  | .ack0 _ ct pay => payloadFits P pay && decide (ct ≠ .reset)
  | .ack1 _ ct pay => payloadFits P pay && decide (ct ≠ .reset)
  | .data0Noop _ pay | .data1Noop _ pay | .data0Connreq _ pay | .data1Connreq _ pay
  | .data0Discreq _ pay | .data1Discreq _ pay => payloadFits P pay

end Sys2Proof
end

