-- ==== Sys2Proof/Decode.lean ====
section
/-!
DEFINITION. Decoding, and after it encoding. A command word decodes by its opcode (rules R91, R92); a
received message decodes through the codec, the length and checksum checks (rule R162) and the header
classification (rules R103, R104). Both are total and reject by name.
-/

namespace Sys2Proof

/-! ### Tag codes (rules R100, R101) -/

/-- The number of a channel-message-type tag (rule R100). -/
def CType.code : CType → BitVec 2
  | .noop => 0
  | .connreq => 1
  | .discreq => 2
  | .reset => 3

/-- The tag that a `CTYPE` byte's bits `[1:0]` name (rules R100, R111). -/
def CType.ofByte (b : Byte) : CType :=
  match b.getLsbD 1, b.getLsbD 0 with
  | false, false => .noop
  | false, true => .connreq
  | true, false => .discreq
  | true, true => .reset

/-- The number of an ARQ-message-type tag: bit 1 is the sequence, bit 0 says ACK (rule R101). -/
def AType.code : AType → BitVec 2
  | .data false => 0
  | .ack false => 1
  | .data true => 2
  | .ack true => 3

/-- The tag that an `ATYPE` byte's bits `[1:0]` name (rules R101, R111). -/
def AType.ofByte (b : Byte) : AType :=
  if b.getLsbD 0 then .ack (b.getLsbD 1) else .data (b.getLsbD 1)

/-- The tag byte of a frame: bits `[7:2]` are zero (rule R98). -/
def CType.byte (t : CType) : Byte := t.code.setWidth 8

/-- The tag byte of a frame: bits `[7:2]` are zero (rule R98). -/
def AType.byte (t : AType) : Byte := t.code.setWidth 8

/-! ### The command word (rules R91, R92) -/

/-- `CMD[31:24]`. -/
def opField (w : Word32) : Byte := w.extractLsb' 24 8

/-- `CMD[23:16]`. -/
def chField (w : Word32) : Byte := w.extractLsb' 16 8

/-- `CMD[15:0]`. -/
def argField (w : Word32) : BitVec 16 := w.extractLsb' 0 16

/-- The command a 32-bit word stands for (rules R92, R93, R230). Every word is a command: the opcodes
`0x0D .. 0xFF` are the six reserved rows (rule R105). -/
def decodeCommand (w : Word32) : Instr :=
  let op := opField w
  let ch := chField w
  let arg := argField w
  if op = 0x00 then .nop
  else if op = 0x01 then .poll
  else if op = 0x02 then .openChan ch
  else if op = 0x03 then .closeChan ch
  else if op = 0x04 then .connect ch arg
  else if op = 0x05 then .disconnect ch
  else if op = 0x06 then .write ch (arg.setWidth 8)
  else if op = 0x07 then .flush ch
  else if op = 0x08 then .read ch
  else if op = 0x09 then .peek ch
  else if op = 0x0A then .avail ch
  else if op = 0x0B then .status ch
  else if op = 0x0C then .linkstat
  else if op = 0x0D then .reserved0D
  else if op.toNat < 0x10 then .reserved0E0F (op.setWidth 1)
  else if op.toNat < 0x20 then .reserved101F (op.setWidth 4)
  else if op.toNat < 0x40 then .reserved203F (op.setWidth 5)
  else if op.toNat < 0x80 then .reserved407F (op.setWidth 6)
  else .reserved80FF (op.setWidth 7)

/-! ### The raw frame (rules R98, R102 to R104) -/

/-- The header and payload of a raw frame, as the bytes they are (rule R98). -/
structure RawFrame where
  chan : Byte
  ctype : Byte
  atype : Byte
  pay : List Byte
  deriving DecidableEq, Repr

/-- The bytes the checksum covers: header, then payload (rule R102). -/
def RawFrame.covered (f : RawFrame) : List Byte := f.chan :: f.ctype :: f.atype :: f.pay

/-- The raw frame: header, payload, checksum, most significant byte first (rules R98, R102, R64). -/
def rawFrame (P : Params) (f : RawFrame) : List Byte :=
  f.covered ++
    [(P.crc16 f.covered).extractLsb' 8 8, (P.crc16 f.covered).extractLsb' 0 8]

/-- Why a received message is no frame: the checks of rule R162, in its order, but the reserved-bit
check, which the rows FRAME.RESERVED of the opcode table stand for. -/
inductive DecodeError
  /-- `accOvf`: a byte did not fit the accumulator. -/
  | overflow
  /-- `Decode` failed. -/
  | codec
  /-- The raw length is not in `5 .. MAXPAY+5`. -/
  | length
  /-- The checksum does not verify. -/
  | checksum
  deriving DecidableEq, Repr

/-- The length and checksum checks of rule R162 on the bytes of a raw frame. -/
def checkRaw (P : Params) (r : List Byte) : Except DecodeError RawFrame :=
  match r with
  | chan :: ctype :: atype :: rest =>
    match rest.reverse with
    | lo :: hi :: revPay =>
      let f : RawFrame := ⟨chan, ctype, atype, revPay.reverse⟩
      if f.pay.length ≤ P.maxpay then
        if P.crc16 f.covered = hi ++ lo then .ok f else .error .checksum
      else .error .length
    | _ => .error .length
  | _ => .error .length

/-- The checks of rule R162 on an accumulated message, in its order, up to the checksum. -/
def checkMessage (P : Params) (e : List Byte) (ovf : Bool) : Except DecodeError RawFrame :=
  if ovf then .error .overflow
  else
    match P.decode e with
    | none => .error .codec
    | some r => checkRaw P r

/-- The kind of a raw frame that passed the checks: a reserved tag bit first (rule R104), then the
first matching row of rule R103. -/
def classify (f : RawFrame) : Instr :=
  if f.ctype.getLsbD 2 then .frameReservedC2 f.chan f.ctype f.atype f.pay
  else if f.ctype.getLsbD 3 then .frameReservedC3 f.chan f.ctype f.atype f.pay
  else if f.ctype.getLsbD 4 then .frameReservedC4 f.chan f.ctype f.atype f.pay
  else if f.ctype.getLsbD 5 then .frameReservedC5 f.chan f.ctype f.atype f.pay
  else if f.ctype.getLsbD 6 then .frameReservedC6 f.chan f.ctype f.atype f.pay
  else if f.ctype.getLsbD 7 then .frameReservedC7 f.chan f.ctype f.atype f.pay
  else if f.atype.getLsbD 2 then .frameReservedA2 f.chan f.ctype f.atype f.pay
  else if f.atype.getLsbD 3 then .frameReservedA3 f.chan f.ctype f.atype f.pay
  else if f.atype.getLsbD 4 then .frameReservedA4 f.chan f.ctype f.atype f.pay
  else if f.atype.getLsbD 5 then .frameReservedA5 f.chan f.ctype f.atype f.pay
  else if f.atype.getLsbD 6 then .frameReservedA6 f.chan f.ctype f.atype f.pay
  else if f.atype.getLsbD 7 then .frameReservedA7 f.chan f.ctype f.atype f.pay
  else
    match CType.ofByte f.ctype, AType.ofByte f.atype with
    | .reset, t => .frameReset f.chan t f.pay
    | c, .ack false => .ack0 f.chan c f.pay
    | c, .ack true => .ack1 f.chan c f.pay
    | .noop, .data false => .data0Noop f.chan f.pay
    | .noop, .data true => .data1Noop f.chan f.pay
    | .connreq, .data false => .data0Connreq f.chan f.pay
    | .connreq, .data true => .data1Connreq f.chan f.pay
    | .discreq, .data false => .data0Discreq f.chan f.pay
    | .discreq, .data true => .data1Discreq f.chan f.pay

/-- The instruction in a raw frame, or why there is none. -/
def decodeRaw (P : Params) (r : List Byte) : Except DecodeError Instr :=
  (checkRaw P r).map classify

/-- The instruction in an accumulated message, or why there is none. -/
def decodeMessage (P : Params) (e : List Byte) (ovf : Bool) : Except DecodeError Instr :=
  (checkMessage P e ovf).map classify

/-- An encoded instruction: a command word, or the bytes of a raw frame (rule R90). -/
inductive Code
  | command (w : Word32)
  | frame (raw : List Byte)
  deriving DecidableEq, Repr

/-- Decoding, over both formats. -/
def decode (P : Params) : Code → Except DecodeError Instr
  | .command w => .ok (decodeCommand w)
  | .frame raw => decodeRaw P raw

/-- The header number `HDR = (CHAN << 16) | (CTYPE << 8) | ATYPE` of rule R103, as its three bytes,
with an empty payload. -/
def headerFrame (w : Nat) : RawFrame :=
  ⟨BitVec.ofNat 8 (w / 65536), BitVec.ofNat 8 (w / 256), BitVec.ofNat 8 w, []⟩

/-- What the decoder reads from a row's word: the command rows have 32 bits, the frame rows give the
24-bit header number of rule R103 (or fewer bits, with zeros above). The frame rows' precondition is
that the message verified, so their word goes to the classification (log entry 12). -/
def decodeTableWord (nbits w : Nat) : Option Instr :=
  if nbits = 32 then some (decodeCommand (BitVec.ofNat 32 w))
  else if nbits ≤ 24 then some (classify (headerFrame w))
  else none

/-! ### Encoding -/

/-- `CMD = OP[31:24] CH[23:16] ARG[15:0]` (rule R91). -/
def commandWord (op ch : Byte) (arg : BitVec 16) : Word32 := op ++ ch ++ arg

/-- Encoding: a command's ignored fields are written as zero (rule R91; log entry 16); a frame kind becomes its raw
frame (rules R98 to R103). -/
def encode (P : Params) : Instr → Code
  | .nop => .command (commandWord 0x00 0 0)
  | .poll => .command (commandWord 0x01 0 0)
  | .openChan ch => .command (commandWord 0x02 ch 0)
  | .closeChan ch => .command (commandWord 0x03 ch 0)
  | .connect ch t => .command (commandWord 0x04 ch t)
  | .disconnect ch => .command (commandWord 0x05 ch 0)
  | .write ch v => .command (commandWord 0x06 ch (v.setWidth 16))
  | .flush ch => .command (commandWord 0x07 ch 0)
  | .read ch => .command (commandWord 0x08 ch 0)
  | .peek ch => .command (commandWord 0x09 ch 0)
  | .avail ch => .command (commandWord 0x0A ch 0)
  | .status ch => .command (commandWord 0x0B ch 0)
  | .linkstat => .command (commandWord 0x0C 0 0)
  | .reserved0D => .command (commandWord 0x0D 0 0)
  | .reserved0E0F lo => .command (commandWord (0x07#7 ++ lo) 0 0)
  | .reserved101F lo => .command (commandWord (0x1#4 ++ lo) 0 0)
  | .reserved203F lo => .command (commandWord (0x1#3 ++ lo) 0 0)
  | .reserved407F lo => .command (commandWord (0x1#2 ++ lo) 0 0)
  | .reserved80FF lo => .command (commandWord (0x1#1 ++ lo) 0 0)
  | .frameReservedC2 chan ct aty pay => .frame (rawFrame P ⟨chan, ct, aty, pay⟩)
  | .frameReservedC3 chan ct aty pay => .frame (rawFrame P ⟨chan, ct, aty, pay⟩)
  | .frameReservedC4 chan ct aty pay => .frame (rawFrame P ⟨chan, ct, aty, pay⟩)
  | .frameReservedC5 chan ct aty pay => .frame (rawFrame P ⟨chan, ct, aty, pay⟩)
  | .frameReservedC6 chan ct aty pay => .frame (rawFrame P ⟨chan, ct, aty, pay⟩)
  | .frameReservedC7 chan ct aty pay => .frame (rawFrame P ⟨chan, ct, aty, pay⟩)
  | .frameReservedA2 chan ct aty pay => .frame (rawFrame P ⟨chan, ct, aty, pay⟩)
  | .frameReservedA3 chan ct aty pay => .frame (rawFrame P ⟨chan, ct, aty, pay⟩)
  | .frameReservedA4 chan ct aty pay => .frame (rawFrame P ⟨chan, ct, aty, pay⟩)
  | .frameReservedA5 chan ct aty pay => .frame (rawFrame P ⟨chan, ct, aty, pay⟩)
  | .frameReservedA6 chan ct aty pay => .frame (rawFrame P ⟨chan, ct, aty, pay⟩)
  | .frameReservedA7 chan ct aty pay => .frame (rawFrame P ⟨chan, ct, aty, pay⟩)
  | .frameReset chan t pay => .frame (rawFrame P ⟨chan, CType.reset.byte, t.byte, pay⟩)
  | .ack0 chan ct pay => .frame (rawFrame P ⟨chan, ct.byte, (AType.ack false).byte, pay⟩)
  | .ack1 chan ct pay => .frame (rawFrame P ⟨chan, ct.byte, (AType.ack true).byte, pay⟩)
  | .data0Noop chan pay =>
    .frame (rawFrame P ⟨chan, CType.noop.byte, (AType.data false).byte, pay⟩)
  | .data1Noop chan pay =>
    .frame (rawFrame P ⟨chan, CType.noop.byte, (AType.data true).byte, pay⟩)
  | .data0Connreq chan pay =>
    .frame (rawFrame P ⟨chan, CType.connreq.byte, (AType.data false).byte, pay⟩)
  | .data1Connreq chan pay =>
    .frame (rawFrame P ⟨chan, CType.connreq.byte, (AType.data true).byte, pay⟩)
  | .data0Discreq chan pay =>
    .frame (rawFrame P ⟨chan, CType.discreq.byte, (AType.data false).byte, pay⟩)
  | .data1Discreq chan pay =>
    .frame (rawFrame P ⟨chan, CType.discreq.byte, (AType.data true).byte, pay⟩)

end Sys2Proof
end

