-- ==== Sys2Proof/Machine/State.lean ====
section
/-!
DEFINITION. The state of one ARQ-MUX instance (rule R20), the reasons a step could stop, and the state
after hardware reset (rules R48, R280). State is plain data.
-/

namespace Sys2Proof.Machine

/-- The four transmitter states (rule R28); `true` is sequence 1. -/
inductive TxState
  /-- `RDY(N)`: idle. -/
  | rdy (n : Bool)
  /-- `WAIT(N)`: one frame in flight. -/
  | wait (n : Bool)
  deriving DecidableEq, Repr

/-- The four receiver states (rule R33); `true` is sequence 1. -/
inductive RxState
  /-- `AWAIT(N)`. -/
  | await (n : Bool)
  /-- `BUFRET(N)`: a delivered frame is not yet acknowledged. -/
  | bufret (n : Bool)
  deriving DecidableEq, Repr

/-- The four channel states (rule R37). -/
inductive CState
  | disc
  | connPend
  | connected
  | discPend
  deriving DecidableEq, Repr

/-- The six status codes (rule R95). The reserved codes are never produced. -/
inductive Status
  | success
  | busy
  | pending
  | peerDisconnected
  | invalid
  | empty
  deriving DecidableEq, Repr

/-- What raises a link reset (rule R263). The cause is not stored (rules R253, R262). -/
inductive ResetCause
  | peerReset
  | desync
  | retryCeiling
  deriving DecidableEq, Repr

/-- The fields of a buffer slot but its payload (rule R21). -/
structure SlotHeader where
  chan : Byte
  ctype : CType
  atype : AType
  len : Nat
  deriving DecidableEq, Repr

/-- One entry of the channel table (rules R36 to R41). -/
structure Channel where
  reg : Bool
  cstate : CState
  cstat : Status
  inq : List Nat
  rdOff : Nat
  asm : Option Nat
  cT0 : Time
  cTmo : Time
  deriving DecidableEq, Repr

/-- A byte memory: (address, byte) pairs in canonical form, addresses strictly rising and no entry
equal to what an unlisted address reads as (`Memory.wf` in Machine/Ops.lean). -/
abbrev Memory := List Host.Cell

/-- The state (rule R20). Slot indices are natural numbers; queues are lists, oldest first
(log entry 9). -/
structure State where
  /-- `BUF[s]` but the payload, by slot index. -/
  hdr : List SlotHeader
  /-- `BUF[s].pay[o]`, at address `slotAddr s o`. -/
  pay : Memory
  /-- `FREE`. -/
  free : List Nat
  txState : TxState
  /-- `TXQ`; its head is the retransmission buffer. -/
  txq : List Nat
  txT0 : Time
  txRetries : BitVec 8
  rxState : RxState
  /-- `ACC`. -/
  acc : Memory
  accLen : Nat
  accOvf : Bool
  /-- `CH[c]`, by channel id. -/
  ch : List Channel
  /-- `WIRE_RX`, oldest byte first. -/
  wireRx : List Byte
  /-- `WIRE_TX`, oldest message first. -/
  wireTx : List (List Byte)
  /-- The command port: the word the host presents (rule R45). -/
  cmd : Word32
  /-- The time port: the `NOW` presented with the command. -/
  now : Time
  /-- The response port. -/
  rsp : Word32
  /-- The MODEL's own field: the number of hardware resets since power-on, which selects the
  unspecified contents of `BUF` and `ACC` (log entry 2). -/
  epoch : Nat
  deriving DecidableEq, Repr

/-- Reasons to stop with a fault: none. The block has no address fault (rule R61) and every command and
every received byte sequence has exactly one defined outcome (rule R305). -/
inductive Fault
  deriving DecidableEq, Repr

/-- Reasons to refuse. -/
inductive Refusal
  /-- An instruction that has no meaning in the model; raised by `exec` alone, and by no arm of it now.
  Safe: the model stops. -/
  | notModelled (mnemonic : String)
  deriving DecidableEq, Repr

/-- A channel after hardware reset (rules R48, R280); also what a channel id beyond the table reads
as: not registered (rule R67). -/
def Channel.idle : Channel :=
  { reg := false, cstate := .disc, cstat := .success, inq := [], rdOff := 0, asm := none, cT0 := 0,
    cTmo := 0 }

/-- The unspecified contents of slot `s` after the `k`-th hardware reset (rules R24, R280). -/
def powerUpHeader (P : Params) (k s : Nat) : SlotHeader :=
  { chan := P.powerUpChan k s, ctype := P.powerUpCtype k s, atype := P.powerUpAtype k s,
    len := P.powerUpLen k s }

/-- The state after the hardware reset at power-on, for given parameters (rules R48, R280). The wire
queues are empty and the input ports read zero: the log entries 4 and 5. -/
def State.powerOn (P : Params) : State :=
  { hdr := (List.range P.nbuf).map (powerUpHeader P 0)
    pay := []
    free := List.range P.nbuf
    txState := .rdy false
    txq := []
    txT0 := 0
    txRetries := 0
    rxState := .await false
    acc := []
    accLen := 0
    accOvf := false
    ch := List.replicate P.nchan Channel.idle
    wireRx := []
    wireTx := []
    cmd := 0
    now := 0
    rsp := 0
    epoch := 0 }

/-- The machine right after reset (rule R280). -/
def State.reset : State := State.powerOn Config.params

end Sys2Proof.Machine
end

