-- ==== Sys2Proof/Machine/Flags.lean ====
section
/-!
DEFINITION. The flags and codes of the state-machine registers (rules R28, R33, R37, R46, R95), and the
time arithmetic that decides when a timer has expired (rules R76, R268).
-/

namespace Sys2Proof.Machine

/-- `seq(txState)`, the sequence toggle: bit 1 (rule R28). -/
def TxState.seq : TxState → Bool
  | .rdy n => n
  | .wait n => n

/-- `phase(txState)`: bit 0, one frame is in flight (rule R28). -/
def TxState.phase : TxState → Bool
  | .rdy _ => false
  | .wait _ => true

/-- `seq(rxState)`: bit 1 (rule R33). -/
def RxState.seq : RxState → Bool
  | .await n => n
  | .bufret n => n

/-- `phase(rxState)`: bit 0, a delivered frame is not yet acknowledged (rule R33). -/
def RxState.phase : RxState → Bool
  | .await _ => false
  | .bufret _ => true

/-- A 2-bit state value from its sequence and phase bits (rules R28, R33). -/
def stateCode (seq phase : Bool) : BitVec 2 := BitVec.ofBool seq ++ BitVec.ofBool phase

/-- The number of a transmitter state (rule R28). -/
def TxState.code (t : TxState) : BitVec 2 := stateCode t.seq t.phase

/-- The number of a receiver state (rule R33). -/
def RxState.code (r : RxState) : BitVec 2 := stateCode r.seq r.phase

/-- The number of a channel state (rule R37). -/
def CState.code : CState → BitVec 2
  | .disc => 0
  | .connPend => 1
  | .connected => 2
  | .discPend => 3

/-- The number of a status (rule R95); three bits hold it. -/
def Status.code : Status → BitVec 3
  | .success => 0
  | .busy => 1
  | .pending => 2
  | .peerDisconnected => 3
  | .invalid => 4
  | .empty => 5

/-- The low `TIME_BITS` bits of a time, which are all a time has (rule R76). -/
def clip (P : Params) (t : Time) : Time := BitVec.ofNat 64 (t.toNat % 2 ^ P.timeBits)

/-- `NOW`, the `TIME_BITS`-bit value presented with the command (rule R45). -/
def nowOf (P : Params) (s : State) : Time := clip P s.now

/-- `Elapsed(t0) = (NOW - t0) mod 2^TIME_BITS` (rule R76). -/
def elapsed (P : Params) (s : State) (t0 : Time) : Nat := (s.now - t0).toNat % 2 ^ P.timeBits

/-- A timer armed at `t0` with the given threshold has expired (rule R76). -/
def expired (P : Params) (s : State) (t0 : Time) (threshold : Nat) : Bool :=
  decide (threshold ≤ elapsed P s t0)

/-- The retransmission count's increment: `min(n + 1, 255)` (rule R77). -/
def bumpRetries (n : BitVec 8) : BitVec 8 := if n = 255 then 255 else n + 1

/-- The retry ceiling is set and reached (rule R144); 0 means no ceiling. -/
def atCeiling (P : Params) (s : State) : Bool :=
  decide (P.retryMax ≠ 0) && decide (P.retryMax ≤ s.txRetries.toNat)

end Sys2Proof.Machine
end

