-- ==== Sys2Proof/Machine/Operands.lean ====
section
/-!
DEFINITION. Operand assembly and the response word: the layouts of rules R94, R96, R97 and R111.
-/

namespace Sys2Proof.Machine

/-- The connect timeout in ticks: `(ARG * TICK_HZ) mod 2^TIME_BITS` (rules R77, R111). -/
def connectTicks (P : Params) (seconds : BitVec 16) : Time :=
  BitVec.ofNat 64 (seconds.toNat * P.tickHz % 2 ^ P.timeBits)

/-- `RSP = ST[31:24] 0[23:16] DATA[15:0]` (rule R94). -/
def rspWord (st : Status) (data : BitVec 16) : Word32 := st.code.setWidth 8 ++ 0#8 ++ data

/-- The byte result of READ and PEEK, zero-extended (rules R62, R111). -/
def byteData (v : Byte) : BitVec 16 := v.setWidth 16

/-- `DATA` of STATUS: `cstat` at `[6:4]`, `reg` at 2, `cstate` at `[1:0]` (rule R96). -/
def statusData (k : Channel) : BitVec 16 :=
  0#9 ++ k.cstat.code ++ 0#1 ++ BitVec.ofBool k.reg ++ k.cstate.code

/-- `DATA` of LINKSTAT: `len(FREE)` at `[15:8]`, `rxState` at `[3:2]`, `txState` at `[1:0]`
(rule R97). -/
def linkstatData (s : State) : BitVec 16 :=
  BitVec.ofNat 8 s.free.length ++ 0#4 ++ s.rxState.code ++ s.txState.code

/-- The next sequence number, `1 - N` (rule R77). -/
def toggle (n : Bool) : Bool := !n

end Sys2Proof.Machine
end

