-- ==== Sys2Proof/Machine/Ops.lean ====
section
/-!
DEFINITION. The operations every rule is built from: byte memory (rules R9, R62), slots and channels
(rules R21, R36), the buffer pool (rules R130 to R133), the response (rule R94), and the two resets: the
link reset, which is this block's trap entry (rule R262), and the hardware reset (rule R280). There is
no return from a trap, because nothing is entered (rule R265).
-/

namespace Sys2Proof.Machine

/-! ### Byte memory -/

/-- The byte at an address; `blank` is what an unlisted address reads as. -/
def Memory.read (blank : Nat → Byte) : Memory → Nat → Byte
  | [], a => blank a
  | c :: m, a => if a = c.1 then c.2 else Memory.read blank m a

/-- List a byte at its place. -/
def Memory.insert : Memory → Nat → Byte → Memory
  | [], a, v => [(a, v)]
  | c :: m, a, v =>
    if a < c.1 then (a, v) :: c :: m
    else if a = c.1 then (a, v) :: m
    else c :: Memory.insert m a v

/-- Store a byte; storing what an unlisted address reads as removes the entry, so that equal memories
are equal data. -/
def Memory.write (blank : Nat → Byte) (m : Memory) (a : Nat) (v : Byte) : Memory :=
  if v = blank a then m.filter (fun c => decide (c.1 ≠ a)) else Memory.insert m a v

/-- The canonical form: addresses strictly rising, and no entry equal to what an unlisted address
reads as. -/
def Memory.wf (blank : Nat → Byte) (m : Memory) : Bool :=
  decide ((m.map Prod.fst).Pairwise (· < ·)) && m.all (fun c => decide (c.2 ≠ blank c.1))

/-- The address of payload byte `o` of slot `s`. An offset is below `MAXPAY ≤ 255`, so no two bytes
share an address (rule R60; log entry 6). -/
def slotAddr (s o : Nat) : Nat := s * 256 + o

/-- What an unlisted payload address reads as: its unspecified contents since the last hardware reset
(rules R24, R280). -/
def payBlank (P : Params) (s : State) : Nat → Byte := P.powerUpPay s.epoch

/-- What an unlisted accumulator address reads as (rules R48, R280). -/
def accBlank (P : Params) (s : State) : Nat → Byte := P.powerUpAcc s.epoch

/-- `MemRead(s, o, 1)`: the payload byte `BUF[s].pay[o]` (rules R9, R62). -/
def memRead (P : Params) (i o : Nat) (s : State) : Byte :=
  Memory.read (payBlank P s) s.pay (slotAddr i o)

/-- `MemWrite(s, o, 1, v)` (rules R9, R62). -/
def memWrite (P : Params) (i o : Nat) (v : Byte) (s : State) : State :=
  { s with pay := Memory.write (payBlank P s) s.pay (slotAddr i o) v }

/-- The first `n` payload bytes of a slot: the whole-payload load of rule R62. -/
def payload (P : Params) (i n : Nat) (s : State) : List Byte :=
  (List.range n).map fun o => memRead P i o s

/-- Store bytes into a slot's payload from offset `o` on: the whole-payload store of rule R62. -/
def storeBytes (P : Params) (i : Nat) : Nat → List Byte → State → State
  | _, [], s => s
  | o, b :: bs, s => storeBytes P i (o + 1) bs (memWrite P i o b s)

/-! ### The accumulator (rule R35) -/

/-- `ACC[accLen] <- b` and the count (rule R160). -/
def accPush (P : Params) (b : Byte) (s : State) : State :=
  { s with acc := Memory.write (accBlank P s) s.acc s.accLen b, accLen := s.accLen + 1 }

/-- `ACC[0 .. accLen-1]`. -/
def accumulated (P : Params) (s : State) : List Byte :=
  (List.range s.accLen).map fun o => Memory.read (accBlank P s) s.acc o

/-- `accLen <- 0 ; accOvf <- 0`. -/
def accClear (s : State) : State := { s with accLen := 0, accOvf := false }

/-! ### Slots and channels -/

/-- The header of slot `i`. -/
def slotOf (i : Nat) (s : State) : SlotHeader :=
  s.hdr.getD i { chan := 0, ctype := .noop, atype := .data false, len := 0 }

/-- Write the header of slot `i`. -/
def setSlot (i : Nat) (h : SlotHeader) (s : State) : State := { s with hdr := s.hdr.set i h }

/-- The entry of channel `c`; an id beyond the table is not registered (rule R67). -/
def chanOf (c : Nat) (s : State) : Channel := s.ch.getD c Channel.idle

/-- Write the entry of channel `c`. -/
def setChan (c : Nat) (k : Channel) (s : State) : State := { s with ch := s.ch.set c k }

/-- A frame's channel id resolves: it is below `NCHAN` and registered (rule R68). -/
def resolves (P : Params) (c : Nat) (s : State) : Bool :=
  decide (c < P.nchan) && (chanOf c s).reg

/-! ### The response -/

/-- `RSP <- (st, d)`, which ends the command (rules R9, R94). -/
def respond (st : Status) (data : BitVec 16) (s : State) : State := { s with rsp := rspWord st data }

/-- `ChanCheck(c, needReg)` before the rest of a command (rule R207). -/
def chanCheck (P : Params) (c : Nat) (needReg : Bool) (s : State) (rest : State) : State :=
  if P.nchan ≤ c then respond .invalid 0 s
  else if needReg && !(chanOf c s).reg then respond .invalid 0 s
  else rest

/-! ### The buffer pool -/

/-- `PoolAcquire()`: the oldest free slot, or none (rule R130). -/
def poolAcquire (s : State) : Option (Nat × State) :=
  match s.free with
  | [] => none
  | i :: rest => some (i, { s with free := rest })

/-- `PoolRelease(i)`: to the newest end, with no other effect (rule R131). -/
def poolRelease (i : Nat) (s : State) : State := { s with free := s.free ++ [i] }

/-- `TxAcquire()`: an acquisition that leaves `RX_RESERVE` slots behind (rule R133). -/
def txAcquire (P : Params) (s : State) : Option (Nat × State) :=
  if s.free.length ≤ P.rxReserve then none else poolAcquire s

/-- The slot a channel may hold goes back to the pool. -/
def releaseAsm (asm : Option Nat) (s : State) : State :=
  match asm with
  | none => s
  | some a => poolRelease a s

/-! ### Link reset and hardware reset -/

/-- A channel after a link reset: its queues are gone, and if it was registered and not `DISC` it is
`DISC` with `PEER_DISCONNECTED` (rule R262). -/
def linkResetChannel (k : Channel) : Channel :=
  if k.reg && decide (k.cstate ≠ .disc) then
    { k with inq := [], rdOff := 0, asm := none, cstate := .disc, cstat := .peerDisconnected }
  else { k with inq := [], rdOff := 0, asm := none }

/-- `LinkReset(cause)`, the block's trap entry (rule R262). The cause is not stored, nothing is
emitted, and the command in progress goes on in the state this leaves (rules R253, R264). -/
def linkReset (P : Params) (_cause : ResetCause) (s : State) : State :=
  { s with
    txq := []
    ch := s.ch.map linkResetChannel
    free := List.range P.nbuf
    txState := .rdy false
    txRetries := 0
    rxState := .await false
    accLen := 0
    accOvf := false }

/-- `HardwareReset()` (rule R280): every element at its reset value, the contents of `BUF` and `ACC`
unspecified anew, the wire queues and the input ports untouched. -/
def hardwareReset (P : Params) (s : State) : State :=
  { State.powerOn P with
    hdr := (List.range P.nbuf).map (powerUpHeader P (s.epoch + 1))
    wireRx := s.wireRx
    wireTx := s.wireTx
    cmd := s.cmd
    now := s.now
    epoch := s.epoch + 1 }

end Sys2Proof.Machine
end

