-- ==== Sys2Proof/Machine/Transmit.lean ====
section
/-!
DEFINITION. The ARQ engine's transmit half (rules R140 to R149), with the channel events that an
acknowledgment raises (rules R202, R204).
-/

namespace Sys2Proof.Machine

/-- `Raw(chan, ctype, atype, pay)` (rule R149). -/
def raw (P : Params) (chan : Byte) (ct : CType) (aty : AType) (pay : List Byte) : List Byte :=
  rawFrame P ⟨chan, ct.byte, aty.byte, pay⟩

/-- The wire message of a raw frame: `Encode(raw) ++ [EOM]` (rule R106). -/
def message (P : Params) (r : List Byte) : List Byte := P.encode r ++ [P.eom]

/-- `Emit(m)`: hand a message to the transport, which cannot fail (rule R146). -/
def emit (m : List Byte) (s : State) : State := { s with wireTx := s.wireTx ++ [m] }

/-- The message of the frame that slot `i` holds (rule R146). -/
def slotMessage (P : Params) (i : Nat) (s : State) : List Byte :=
  let h := slotOf i s
  message P (raw P h.chan h.ctype h.atype (payload P i h.len s))

/-- `EmitFrame(i)` (rule R146). -/
def emitFrame (P : Params) (i : Nat) (s : State) : State := emit (slotMessage P i s) s

/-- The acknowledgment message of sequence `N`, built from constants (rule R147). -/
def ackMessage (P : Params) (n : Bool) : List Byte := message P (raw P 0 .noop (.ack n) [])

/-- The channel-reset notification for an unresolved channel id (rule R148). -/
def resetMessage (P : Params) (chan : Byte) : List Byte :=
  message P (raw P chan .reset (.data false) [])

/-- `SendAck(N)`: an unsequenced frame, with no slot and no queue (rule R147). -/
def sendAck (P : Params) (n : Bool) (s : State) : State := emit (ackMessage P n) s

/-- `SendReset(ch)` (rule R148). -/
def sendReset (P : Params) (chan : Byte) (s : State) : State := emit (resetMessage P chan) s

/-- `StartSend()`: send the head of `TXQ` and arm the timer (rule R142). No caller has an empty `TXQ`
(log entry 10). -/
def startSend (P : Params) (s : State) : State :=
  match s.txq with
  | [] => s
  | h :: _ =>
    let n := s.txState.seq
    let s1 := setSlot h { slotOf h s with atype := .data n } s
    let s2 := emitFrame P h s1
    { s2 with txT0 := nowOf P s, txRetries := 0, txState := .wait n }

/-- `Submit(i)`: queue a slot, and send it at once if the transmitter is idle (rule R140). -/
def submit (P : Params) (i : Nat) (s : State) : State :=
  let s1 := { s with txq := s.txq ++ [i] }
  if s.txState.phase then s1 else startSend P s1

/-- Submit the assembly buffer a channel may hold. -/
def submitAsm (P : Params) (asm : Option Nat) (s : State) : State :=
  match asm with
  | none => s
  | some a => submit P a s

/-- `ChanCrAcked(c)` (rule R202). -/
def chanCrAcked (P : Params) (c : Nat) (s : State) : State :=
  if resolves P c s && decide ((chanOf c s).cstate = .connPend) then
    setChan c { chanOf c s with cstate := .connected, cstat := .success } s
  else s

/-- `ChanDrAcked(c)` (rule R204). -/
def chanDrAcked (P : Params) (c : Nat) (s : State) : State :=
  if resolves P c s && decide ((chanOf c s).cstate = .discPend) then
    setChan c { chanOf c s with cstate := .disc, cstat := .success } s
  else s

/-- What the acknowledgment of a frame tells its channel (rule R143). -/
def ackEvent (P : Params) (ct : CType) (c : Nat) (s : State) : State :=
  match ct with
  | .connreq => chanCrAcked P c s
  | .discreq => chanDrAcked P c s
  | .noop => s
  | .reset => s

/-- Send the next frame if one is queued (rule R143). -/
def sendNext (P : Params) (s : State) : State :=
  match s.txq with
  | [] => s
  | _ :: _ => startSend P s

/-- `TxAck(M)`: free the head, notify its channel, send the next frame (rule R143); no effect at all
if the sequence is not the awaited one (rule R145). -/
def txAck (P : Params) (m : Bool) (s : State) : State :=
  match s.txState, s.txq with
  | .wait n, h :: rest =>
    if n = m then
      let s1 := poolRelease h { s with txq := rest }
      let s2 := { s1 with txState := .rdy (toggle m) }
      sendNext P (ackEvent P (slotOf h s).ctype (slotOf h s).chan.toNat s2)
    else s
  | .wait _, [] => s
  | .rdy _, _ => s

/-- The retransmission of rule R144: emit the head again, re-arm, count. -/
def retransmit (P : Params) (s : State) : State :=
  match s.txq with
  | [] => s
  | h :: _ =>
    let s1 := emitFrame P h s
    { s1 with txT0 := nowOf P s, txRetries := bumpRetries s.txRetries }

/-- `TxTimer()` (rule R144). -/
def txTimer (P : Params) (s : State) : State :=
  if s.txState.phase && expired P s s.txT0 P.tRetx then
    if atCeiling P s then linkReset P .retryCeiling s else retransmit P s
  else s

end Sys2Proof.Machine
end

