-- ==== Sys2Proof/Machine/Receive.lean ====
section
/-!
DEFINITION. The ARQ engine's receive half (rules R160 to R166), the channel events that a received
control frame raises (rules R201, R203), and the handshake timers (rule R205).
-/

namespace Sys2Proof.Machine

/-- `ChannelRelease(i)`: free the slot; if a frame is unacknowledged, send its ACK and await the next
sequence (rule R166). -/
def channelRelease (P : Params) (i : Nat) (s : State) : State :=
  let s1 := poolRelease i s
  match s.rxState with
  | .await _ => s1
  | .bufret n => { sendAck P n s1 with rxState := .await (toggle n) }

/-- `ChanPeerCR(c)`: a connect-request was accepted (rule R201). -/
def chanPeerCR (c : Nat) (s : State) : State :=
  match (chanOf c s).cstate with
  | .disc | .connPend => setChan c { chanOf c s with cstate := .connected, cstat := .success } s
  | .connected | .discPend => s

/-- `ChanPeerDR(c)`: a disconnect-request was accepted; unsent bytes are lost (rule R203). -/
def chanPeerDR (c : Nat) (s : State) : State :=
  let k := chanOf c s
  match k.cstate with
  | .connected =>
    releaseAsm k.asm
      (setChan c { k with cstate := .disc, cstat := .peerDisconnected, asm := none } s)
  | .disc | .connPend | .discPend => s

/-- The channel state accepts payload (rule R165). -/
def acceptsPayload (k : Channel) : Bool :=
  decide (k.cstate = .connected) || decide (k.cstate = .discPend)

/-- `Deliver(i)`: route an accepted sequenced frame to its channel (rule R165). A `RESET` tag cannot
reach it (rule R163 step 1; log entry 10). -/
def deliver (P : Params) (i : Nat) (s : State) : State :=
  let c := (slotOf i s).chan.toNat
  let k := chanOf c s
  match (slotOf i s).ctype with
  | .noop =>
    if decide (0 < (slotOf i s).len) && acceptsPayload k then
      setChan c { k with inq := k.inq ++ [i] } s
    else channelRelease P i s
  | .connreq => channelRelease P i (chanPeerCR c s)
  | .discreq => channelRelease P i (chanPeerDR c s)
  | .reset => s

/-- The sequence dispatch table for DATA(M) in slot `i` (rules R163 step 4, R164). -/
def sequenceDispatch (P : Params) (i : Nat) (m : Bool) (s : State) : State :=
  match s.rxState with
  | .await n =>
    if m = n then deliver P i { s with rxState := .bufret n }
    else sendAck P m (poolRelease i s)
  | .bufret n =>
    if m = n then poolRelease i s
    else linkReset P .desync (poolRelease i s)

/-- `Dispatch(i)`: act on the validated frame in slot `i`. In order: reset tag, acknowledgment, channel
resolution, sequence (rule R163). -/
def dispatch (P : Params) (i : Nat) (s : State) : State :=
  let h := slotOf i s
  if h.ctype = .reset then linkReset P .peerReset (poolRelease i s)
  else
    match h.atype with
    | .ack m => txAck P m (poolRelease i s)
    | .data m =>
      if resolves P h.chan.toNat s then sequenceDispatch P i m s
      else sendReset P h.chan (poolRelease i s)

/-- A frame whose reserved tag bits are zero (rules R104, R162). -/
def tagsValid (f : RawFrame) : Bool := reservedClear f.ctype && reservedClear f.atype

/-- Fill slot `i` with a validated frame (rule R161). -/
def storeFrame (P : Params) (i : Nat) (f : RawFrame) (s : State) : State :=
  storeBytes P i 0 f.pay
    (setSlot i
      { chan := f.chan, ctype := CType.ofByte f.ctype, atype := AType.ofByte f.atype,
        len := f.pay.length } s)

/-- What becomes of a message at its terminator, once its checks are done (rule R161): `none` is a
message that failed one. With no free slot it is lost whatever it was (rule R252); a failed message
costs its slot one turn of `FREE` (rule R251). -/
def receive (P : Params) (v : Option RawFrame) (s : State) : State :=
  match poolAcquire s with
  | none => accClear s
  | some (i, s1) =>
    match v with
    | none => poolRelease i (accClear s1)
    | some f => dispatch P i (storeFrame P i f (accClear s1))

/-- The last check of rule R162: reserved tag bits make a frame fail. -/
def acceptTags (f : RawFrame) : Option RawFrame := if tagsValid f then some f else none

/-- `Validate(e, ovf)` (rule R162). -/
def validate (P : Params) (e : List Byte) (ovf : Bool) : Option RawFrame :=
  match checkMessage P e ovf with
  | .error _ => none
  | .ok f => acceptTags f

/-- `RxMessage()`: a terminator was seen (rule R161). -/
def rxMessage (P : Params) (s : State) : State :=
  receive P (validate P (accumulated P s) s.accOvf) s

/-- The effect of a received frame whose message verified: what the frame rows of the opcode table do. -/
def receiveFrame (P : Params) (f : RawFrame) (s : State) : State := receive P (acceptTags f) s

/-- `RxByte(b)` (rules R160, R114). -/
def rxByte (P : Params) (b : Byte) (s : State) : State :=
  if b = P.eom then rxMessage P s
  else if b = P.som then accClear s
  else if s.accLen < P.accCap then accPush P b s
  else { s with accOvf := true }

/-- One `RxByte` per byte, in arrival order (rule R232). -/
def rxBytes (P : Params) : List Byte → State → State
  | [], s => s
  | b :: bs, s => rxBytes P bs (rxByte P b s)

/-- `ChanTimer(c)`: the handshake timeouts of one channel (rule R205). -/
def chanTimer (P : Params) (c : Nat) (s : State) : State :=
  let k := chanOf c s
  if k.reg then
    match k.cstate with
    | .connPend =>
      if expired P s k.cT0 k.cTmo.toNat then setChan c { k with cstate := .disc, cstat := .pending } s
      else s
    | .discPend =>
      if expired P s k.cT0 P.tDisc then setChan c { k with cstate := .disc, cstat := .pending } s
      else s
    | .disc | .connected => s
  else s

/-- `ChanTimer` for every channel id of a list, in its order (rule R232 phase 3). -/
def chanTimers (P : Params) : List Nat → State → State
  | [], s => s
  | c :: cs, s => chanTimers P cs (chanTimer P c s)

end Sys2Proof.Machine
end

