-- ==== Sys2Proof/Machine/Channel.lean ====
section
/-!
DEFINITION. The channel lifecycle and handshake commands: OPEN, CLOSE, CONNECT, DISCONNECT (rules R191 to
R194), and STATUS (rule R200).
-/

namespace Sys2Proof.Machine

/-- `OPEN c` (rule R191). -/
def openOp (P : Params) (ch : Byte) (s : State) : State :=
  let c := ch.toNat
  let k := chanOf c s
  chanCheck P c false s <|
    if k.reg then respond .invalid 0 s
    else
      respond .success 0 <|
        setChan c
          { k with reg := true, cstate := .disc, cstat := .success, rdOff := 0, asm := none } s

/-- Release every slot of an inbound queue, oldest first (rule R192). -/
def releaseAll (P : Params) : List Nat → State → State
  | [], s => s
  | i :: is, s => releaseAll P is (channelRelease P i s)

/-- `CLOSE c` (rule R192): the assembly slot first, then the unread slots. -/
def closeOp (P : Params) (ch : Byte) (s : State) : State :=
  let c := ch.toNat
  let k := chanOf c s
  chanCheck P c true s <|
    respond .success 0 <|
      setChan c
        { k with
          reg := false, cstate := .disc, cstat := .success, inq := [], rdOff := 0, asm := none }
        (releaseAll P k.inq (releaseAsm k.asm s))

/-- The header of a new outgoing frame (rules R193 to R195). -/
def freshHeader (ch : Byte) (ct : CType) : SlotHeader :=
  { chan := ch, ctype := ct, atype := .data false, len := 0 }

/-- `CONNECT c, t` (rule R193). -/
def connectOp (P : Params) (ch : Byte) (seconds : BitVec 16) (s : State) : State :=
  let c := ch.toNat
  let k := chanOf c s
  chanCheck P c true s <|
    match k.cstate with
    | .connPend => respond .pending 0 s
    | .connected => respond .success 0 s
    | .discPend => respond .busy 0 s
    | .disc =>
      match txAcquire P s with
      | none => respond .busy 0 s
      | some (i, s1) =>
        respond .pending 0 <|
          submit P i <|
            setChan c
              { k with
                cstate := .connPend, cstat := .pending, cT0 := nowOf P s,
                cTmo := connectTicks P seconds }
              (setSlot i (freshHeader ch .connreq) s1)

/-- `DISCONNECT c` (rule R194): written bytes go out before the request. -/
def disconnectOp (P : Params) (ch : Byte) (s : State) : State :=
  let c := ch.toNat
  let k := chanOf c s
  chanCheck P c true s <|
    match k.cstate with
    | .disc => respond .success 0 s
    | .connPend => respond .busy 0 s
    | .discPend => respond .busy 0 s
    | .connected =>
      match txAcquire P s with
      | none => respond .busy 0 s
      | some (i, s1) =>
        respond .pending 0 <|
          submit P i <|
            setChan c
              { k with cstate := .discPend, cstat := .pending, cT0 := nowOf P s, asm := none }
              (setSlot i (freshHeader ch .discreq) (submitAsm P k.asm s1))

/-- `STATUS c` (rule R200); an unregistered id below `NCHAN` answers too. -/
def statusOp (P : Params) (ch : Byte) (s : State) : State :=
  chanCheck P ch.toNat false s (respond .success (statusData (chanOf ch.toNat s)) s)

/-- The meaning of OPEN. -/
def execOpen (ch : Byte) (s : State) : Host.Outcome State Fault Refusal :=
  .next (openOp Config.params ch s)

/-- The meaning of CLOSE. -/
def execClose (ch : Byte) (s : State) : Host.Outcome State Fault Refusal :=
  .next (closeOp Config.params ch s)

/-- The meaning of CONNECT. -/
def execConnect (ch : Byte) (seconds : BitVec 16) (s : State) : Host.Outcome State Fault Refusal :=
  .next (connectOp Config.params ch seconds s)

/-- The meaning of DISCONNECT. -/
def execDisconnect (ch : Byte) (s : State) : Host.Outcome State Fault Refusal :=
  .next (disconnectOp Config.params ch s)

/-- The meaning of STATUS. -/
def execStatus (ch : Byte) (s : State) : Host.Outcome State Fault Refusal :=
  .next (statusOp Config.params ch s)

end Sys2Proof.Machine
end

