-- ==== Sys2Proof/Machine/Data.lean ====
section
/-!
DEFINITION. The channel data commands: WRITE, FLUSH, READ, PEEK, AVAIL (rules R195 to R199).
-/

namespace Sys2Proof.Machine

/-- Append a byte to the assembly buffer `a` of channel `c`; the byte that fills it submits it
(rule R195). -/
def appendByte (P : Params) (c a : Nat) (v : Byte) (s : State) : State :=
  let h := slotOf a s
  let s1 := setSlot a { h with len := h.len + 1 } (memWrite P a h.len v s)
  if h.len + 1 = P.maxpay then setChan c { chanOf c s with asm := none } (submit P a s1)
  else setChan c { chanOf c s with asm := some a } s1

/-- `WRITE c, v` (rule R195). -/
def writeOp (P : Params) (ch : Byte) (v : Byte) (s : State) : State :=
  let c := ch.toNat
  let k := chanOf c s
  chanCheck P c true s <|
    if k.cstate ≠ .connected then respond .peerDisconnected 0 s
    else
      match k.asm with
      | some a => respond .success 0 (appendByte P c a v s)
      | none =>
        match txAcquire P s with
        | none => respond .busy 0 s
        | some (i, s1) =>
          respond .success 0 (appendByte P c i v (setSlot i (freshHeader ch .noop) s1))

/-- `FLUSH c` (rule R196). -/
def flushOp (P : Params) (ch : Byte) (s : State) : State :=
  let c := ch.toNat
  let k := chanOf c s
  chanCheck P c true s <|
    match k.asm with
    | none => respond .success 0 s
    | some a => respond .success 0 (setChan c { k with asm := none } (submit P a s))

/-- `READ c` (rule R197): the last byte of a slot releases it, which sends the ACK. -/
def readOp (P : Params) (ch : Byte) (s : State) : State :=
  let c := ch.toNat
  let k := chanOf c s
  chanCheck P c true s <|
    match k.inq with
    | [] => respond .empty 0 s
    | h :: rest =>
      respond .success (byteData (memRead P h k.rdOff s)) <|
        if k.rdOff + 1 = (slotOf h s).len then
          channelRelease P h (setChan c { k with inq := rest, rdOff := 0 } s)
        else setChan c { k with rdOff := k.rdOff + 1 } s

/-- `PEEK c` (rule R198). -/
def peekOp (P : Params) (ch : Byte) (s : State) : State :=
  let c := ch.toNat
  let k := chanOf c s
  chanCheck P c true s <|
    match k.inq with
    | [] => respond .empty 0 s
    | h :: _ => respond .success (byteData (memRead P h k.rdOff s)) s

/-- The number of bytes READ can return (rule R199). -/
def availBytes (k : Channel) (s : State) : Nat :=
  (k.inq.map fun h => (slotOf h s).len).sum - k.rdOff

/-- `AVAIL c` (rule R199). -/
def availOp (P : Params) (ch : Byte) (s : State) : State :=
  chanCheck P ch.toNat true s <|
    respond .success (BitVec.ofNat 16 (availBytes (chanOf ch.toNat s) s)) s

/-- The meaning of WRITE. -/
def execWrite (ch v : Byte) (s : State) : Host.Outcome State Fault Refusal :=
  .next (writeOp Config.params ch v s)

/-- The meaning of FLUSH. -/
def execFlush (ch : Byte) (s : State) : Host.Outcome State Fault Refusal :=
  .next (flushOp Config.params ch s)

/-- The meaning of READ. -/
def execRead (ch : Byte) (s : State) : Host.Outcome State Fault Refusal :=
  .next (readOp Config.params ch s)

/-- The meaning of PEEK. -/
def execPeek (ch : Byte) (s : State) : Host.Outcome State Fault Refusal :=
  .next (peekOp Config.params ch s)

/-- The meaning of AVAIL. -/
def execAvail (ch : Byte) (s : State) : Host.Outcome State Fault Refusal :=
  .next (availOp Config.params ch s)

end Sys2Proof.Machine
end

