-- ==== Sys2Proof/Machine/Frames.lean ====
section
/-!
DEFINITION. The received frames: the twelve rows with a reserved tag bit (rule R104) and the nine frame
kinds (rule R103). A frame is executed inside POLL, when its message's terminator is seen and the message
has passed the checks of rule R162 up to the checksum: the meaning is what becomes of it from there
(rules R161, R163), on the state whose accumulator holds the message.
-/

namespace Sys2Proof.Machine

/-- The meaning of a frame whose first reserved bit set is bit 2 of the CTYPE byte: silently discarded
(rule R104). -/
def execFrameReservedC2 (chan ctype atype : Byte) (pay : List Byte) (s : State) :
    Host.Outcome State Fault Refusal :=
  .next (receiveFrame Config.params ⟨chan, ctype, atype, pay⟩ s)

/-- The meaning of a frame whose first reserved bit set is bit 3 of the CTYPE byte: silently discarded
(rule R104). -/
def execFrameReservedC3 (chan ctype atype : Byte) (pay : List Byte) (s : State) :
    Host.Outcome State Fault Refusal :=
  .next (receiveFrame Config.params ⟨chan, ctype, atype, pay⟩ s)

/-- The meaning of a frame whose first reserved bit set is bit 4 of the CTYPE byte: silently discarded
(rule R104). -/
def execFrameReservedC4 (chan ctype atype : Byte) (pay : List Byte) (s : State) :
    Host.Outcome State Fault Refusal :=
  .next (receiveFrame Config.params ⟨chan, ctype, atype, pay⟩ s)

/-- The meaning of a frame whose first reserved bit set is bit 5 of the CTYPE byte: silently discarded
(rule R104). -/
def execFrameReservedC5 (chan ctype atype : Byte) (pay : List Byte) (s : State) :
    Host.Outcome State Fault Refusal :=
  .next (receiveFrame Config.params ⟨chan, ctype, atype, pay⟩ s)

/-- The meaning of a frame whose first reserved bit set is bit 6 of the CTYPE byte: silently discarded
(rule R104). -/
def execFrameReservedC6 (chan ctype atype : Byte) (pay : List Byte) (s : State) :
    Host.Outcome State Fault Refusal :=
  .next (receiveFrame Config.params ⟨chan, ctype, atype, pay⟩ s)

/-- The meaning of a frame whose first reserved bit set is bit 7 of the CTYPE byte: silently discarded
(rule R104). -/
def execFrameReservedC7 (chan ctype atype : Byte) (pay : List Byte) (s : State) :
    Host.Outcome State Fault Refusal :=
  .next (receiveFrame Config.params ⟨chan, ctype, atype, pay⟩ s)

/-- The meaning of a frame whose first reserved bit set is bit 2 of the ATYPE byte: silently discarded
(rule R104). -/
def execFrameReservedA2 (chan ctype atype : Byte) (pay : List Byte) (s : State) :
    Host.Outcome State Fault Refusal :=
  .next (receiveFrame Config.params ⟨chan, ctype, atype, pay⟩ s)

/-- The meaning of a frame whose first reserved bit set is bit 3 of the ATYPE byte: silently discarded
(rule R104). -/
def execFrameReservedA3 (chan ctype atype : Byte) (pay : List Byte) (s : State) :
    Host.Outcome State Fault Refusal :=
  .next (receiveFrame Config.params ⟨chan, ctype, atype, pay⟩ s)

/-- The meaning of a frame whose first reserved bit set is bit 4 of the ATYPE byte: silently discarded
(rule R104). -/
def execFrameReservedA4 (chan ctype atype : Byte) (pay : List Byte) (s : State) :
    Host.Outcome State Fault Refusal :=
  .next (receiveFrame Config.params ⟨chan, ctype, atype, pay⟩ s)

/-- The meaning of a frame whose first reserved bit set is bit 5 of the ATYPE byte: silently discarded
(rule R104). -/
def execFrameReservedA5 (chan ctype atype : Byte) (pay : List Byte) (s : State) :
    Host.Outcome State Fault Refusal :=
  .next (receiveFrame Config.params ⟨chan, ctype, atype, pay⟩ s)

/-- The meaning of a frame whose first reserved bit set is bit 6 of the ATYPE byte: silently discarded
(rule R104). -/
def execFrameReservedA6 (chan ctype atype : Byte) (pay : List Byte) (s : State) :
    Host.Outcome State Fault Refusal :=
  .next (receiveFrame Config.params ⟨chan, ctype, atype, pay⟩ s)

/-- The meaning of a frame whose first reserved bit set is bit 7 of the ATYPE byte: silently discarded
(rule R104). -/
def execFrameReservedA7 (chan ctype atype : Byte) (pay : List Byte) (s : State) :
    Host.Outcome State Fault Refusal :=
  .next (receiveFrame Config.params ⟨chan, ctype, atype, pay⟩ s)

/-- The meaning of `RESET`: a link reset, whatever the channel id and the ARQ type (rule R163 step 1). -/
def execFrameReset (chan : Byte) (atype : AType) (pay : List Byte) (s : State) :
    Host.Outcome State Fault Refusal :=
  .next (receiveFrame Config.params ⟨chan, CType.reset.byte, atype.byte, pay⟩ s)

/-- The meaning of `ACK0`: `TxAck(0)`, whatever the channel id and the payload (rules R143, R163
step 2). -/
def execAck0 (chan : Byte) (ctype : CType) (pay : List Byte) (s : State) :
    Host.Outcome State Fault Refusal :=
  .next (receiveFrame Config.params ⟨chan, ctype.byte, (AType.ack false).byte, pay⟩ s)

/-- The meaning of `ACK1`: `TxAck(1)`, whatever the channel id and the payload (rules R143, R163
step 2). -/
def execAck1 (chan : Byte) (ctype : CType) (pay : List Byte) (s : State) :
    Host.Outcome State Fault Refusal :=
  .next (receiveFrame Config.params ⟨chan, ctype.byte, (AType.ack true).byte, pay⟩ s)

/-- The meaning of `DATA0.NOOP` (rules R163, R165). -/
def execData0Noop (chan : Byte) (pay : List Byte) (s : State) :
    Host.Outcome State Fault Refusal :=
  .next (receiveFrame Config.params ⟨chan, CType.noop.byte, (AType.data false).byte, pay⟩ s)

/-- The meaning of `DATA1.NOOP` (rules R163, R165). -/
def execData1Noop (chan : Byte) (pay : List Byte) (s : State) :
    Host.Outcome State Fault Refusal :=
  .next (receiveFrame Config.params ⟨chan, CType.noop.byte, (AType.data true).byte, pay⟩ s)

/-- The meaning of `DATA0.CONNREQ` (rules R163, R165, R201). -/
def execData0Connreq (chan : Byte) (pay : List Byte) (s : State) :
    Host.Outcome State Fault Refusal :=
  .next (receiveFrame Config.params ⟨chan, CType.connreq.byte, (AType.data false).byte, pay⟩ s)

/-- The meaning of `DATA1.CONNREQ` (rules R163, R165, R201). -/
def execData1Connreq (chan : Byte) (pay : List Byte) (s : State) :
    Host.Outcome State Fault Refusal :=
  .next (receiveFrame Config.params ⟨chan, CType.connreq.byte, (AType.data true).byte, pay⟩ s)

/-- The meaning of `DATA0.DISCREQ` (rules R163, R165, R203). -/
def execData0Discreq (chan : Byte) (pay : List Byte) (s : State) :
    Host.Outcome State Fault Refusal :=
  .next (receiveFrame Config.params ⟨chan, CType.discreq.byte, (AType.data false).byte, pay⟩ s)

/-- The meaning of `DATA1.DISCREQ` (rules R163, R165, R203). -/
def execData1Discreq (chan : Byte) (pay : List Byte) (s : State) :
    Host.Outcome State Fault Refusal :=
  .next (receiveFrame Config.params ⟨chan, CType.discreq.byte, (AType.data true).byte, pay⟩ s)

end Sys2Proof.Machine
end

