-- ==== Sys2Proof/Machine/Link.lean ====
section
/-!
DEFINITION. The link commands: NOP, POLL and LINKSTAT (rules R231 to R233). Each instruction has an
operation over given parameters and a meaning, which runs it on the machine's parameters.
-/

namespace Sys2Proof.Machine

/-- `NOP` (rule R231). -/
def nopOp (s : State) : State := respond .success 0 s

/-- Phases 2 and 3 of POLL, and its response: the retransmission timer, then the handshake timers in
ascending channel id (rule R232). -/
def pollTimers (P : Params) (s : State) : State :=
  respond .success 0 (chanTimers P (List.range P.nchan) (txTimer P s))

/-- `POLL` (rule R232). Phase 1 takes every byte of `WIRE_RX`, oldest first; no rule reads `WIRE_RX`
while it does, so the queue is emptied at once (log entry 11). -/
def pollOp (P : Params) (s : State) : State :=
  pollTimers P (rxBytes P s.wireRx { s with wireRx := [] })

/-- `LINKSTAT` (rule R233). -/
def linkstatOp (s : State) : State := respond .success (linkstatData s) s

/-- The meaning of NOP. -/
def execNop (s : State) : Host.Outcome State Fault Refusal := .next (nopOp s)

/-- The meaning of POLL. -/
def execPoll (s : State) : Host.Outcome State Fault Refusal := .next (pollOp Config.params s)

/-- The meaning of LINKSTAT. -/
def execLinkstat (s : State) : Host.Outcome State Fault Refusal := .next (linkstatOp s)

end Sys2Proof.Machine
end

