-- ==== Sys2Proof/Machine/Reserved.lean ====
section
/-!
DEFINITION. The six reserved-opcode rows, `0x0D .. 0xFF`: they answer `INVALID` and change nothing else;
they do not trap (rules R105, R234).
-/

namespace Sys2Proof.Machine

/-- `Reserved` (rule R234). -/
def reservedOp (s : State) : State := respond .invalid 0 s

/-- The meaning of the opcodes `0x0D`. -/
def execReserved0D (s : State) : Host.Outcome State Fault Refusal := .next (reservedOp s)

/-- The meaning of the opcodes `0x0E, 0x0F`. -/
def execReserved0E0F (_lo : BitVec 1) (s : State) : Host.Outcome State Fault Refusal := .next (reservedOp s)

/-- The meaning of the opcodes `0x10 .. 0x1F`. -/
def execReserved101F (_lo : BitVec 4) (s : State) : Host.Outcome State Fault Refusal := .next (reservedOp s)

/-- The meaning of the opcodes `0x20 .. 0x3F`. -/
def execReserved203F (_lo : BitVec 5) (s : State) : Host.Outcome State Fault Refusal := .next (reservedOp s)

/-- The meaning of the opcodes `0x40 .. 0x7F`. -/
def execReserved407F (_lo : BitVec 6) (s : State) : Host.Outcome State Fault Refusal := .next (reservedOp s)

/-- The meaning of the opcodes `0x80 .. 0xFF`. -/
def execReserved80FF (_lo : BitVec 7) (s : State) : Host.Outcome State Fault Refusal := .next (reservedOp s)

end Sys2Proof.Machine
end

