-- ==== Sys2Proof/Machine/Dispatch.lean ====
section
/-!
DEFINITION. The one dispatch: an arm per constructor of `Instr`, each one call of its meaning.
-/

namespace Sys2Proof.Machine

/-- What an instruction does. -/
def exec (i : Instr) (s : State) : Host.Outcome State Fault Refusal :=
  match i with
  | .nop => Sys2Proof.Machine.execNop s
  | .poll => Sys2Proof.Machine.execPoll s
  | .openChan ch => Sys2Proof.Machine.execOpen ch s
  | .closeChan ch => Sys2Proof.Machine.execClose ch s
  | .connect ch seconds => Sys2Proof.Machine.execConnect ch seconds s
  | .disconnect ch => Sys2Proof.Machine.execDisconnect ch s
  | .write ch v => Sys2Proof.Machine.execWrite ch v s
  | .flush ch => Sys2Proof.Machine.execFlush ch s
  | .read ch => Sys2Proof.Machine.execRead ch s
  | .peek ch => Sys2Proof.Machine.execPeek ch s
  | .avail ch => Sys2Proof.Machine.execAvail ch s
  | .status ch => Sys2Proof.Machine.execStatus ch s
  | .linkstat => Sys2Proof.Machine.execLinkstat s
  | .reserved0D => Sys2Proof.Machine.execReserved0D s
  | .reserved0E0F lo => Sys2Proof.Machine.execReserved0E0F lo s
  | .reserved101F lo => Sys2Proof.Machine.execReserved101F lo s
  | .reserved203F lo => Sys2Proof.Machine.execReserved203F lo s
  | .reserved407F lo => Sys2Proof.Machine.execReserved407F lo s
  | .reserved80FF lo => Sys2Proof.Machine.execReserved80FF lo s
  | .frameReservedC2 chan ctype atype pay => Sys2Proof.Machine.execFrameReservedC2 chan ctype atype pay s
  | .frameReservedC3 chan ctype atype pay => Sys2Proof.Machine.execFrameReservedC3 chan ctype atype pay s
  | .frameReservedC4 chan ctype atype pay => Sys2Proof.Machine.execFrameReservedC4 chan ctype atype pay s
  | .frameReservedC5 chan ctype atype pay => Sys2Proof.Machine.execFrameReservedC5 chan ctype atype pay s
  | .frameReservedC6 chan ctype atype pay => Sys2Proof.Machine.execFrameReservedC6 chan ctype atype pay s
  | .frameReservedC7 chan ctype atype pay => Sys2Proof.Machine.execFrameReservedC7 chan ctype atype pay s
  | .frameReservedA2 chan ctype atype pay => Sys2Proof.Machine.execFrameReservedA2 chan ctype atype pay s
  | .frameReservedA3 chan ctype atype pay => Sys2Proof.Machine.execFrameReservedA3 chan ctype atype pay s
  | .frameReservedA4 chan ctype atype pay => Sys2Proof.Machine.execFrameReservedA4 chan ctype atype pay s
  | .frameReservedA5 chan ctype atype pay => Sys2Proof.Machine.execFrameReservedA5 chan ctype atype pay s
  | .frameReservedA6 chan ctype atype pay => Sys2Proof.Machine.execFrameReservedA6 chan ctype atype pay s
  | .frameReservedA7 chan ctype atype pay => Sys2Proof.Machine.execFrameReservedA7 chan ctype atype pay s
  | .frameReset chan atype pay => Sys2Proof.Machine.execFrameReset chan atype pay s
  | .ack0 chan ctype pay => Sys2Proof.Machine.execAck0 chan ctype pay s
  | .ack1 chan ctype pay => Sys2Proof.Machine.execAck1 chan ctype pay s
  | .data0Noop chan pay => Sys2Proof.Machine.execData0Noop chan pay s
  | .data1Noop chan pay => Sys2Proof.Machine.execData1Noop chan pay s
  | .data0Connreq chan pay => Sys2Proof.Machine.execData0Connreq chan pay s
  | .data1Connreq chan pay => Sys2Proof.Machine.execData1Connreq chan pay s
  | .data0Discreq chan pay => Sys2Proof.Machine.execData0Discreq chan pay s
  | .data1Discreq chan pay => Sys2Proof.Machine.execData1Discreq chan pay s

end Sys2Proof.Machine
end

