-- ==== Sys2Proof/Machine/Step.lean ====
section
/-!
DEFINITION. One step: the block executes the command that stands at its ports, to completion (rules R10,
R230). The host's choice of the next command, the wire's arrivals and hardware reset are in
Environment.lean.
-/

namespace Sys2Proof.Machine

/-- `Execute(CMD, NOW)` (rule R230): one command, run to its response. -/
def step (s : State) : Host.Outcome State Fault Refusal := exec (decodeCommand s.cmd) s

/-- The message of a received frame, with the start marker the transport adds (rule R106). -/
def wireMessage (P : Params) (f : RawFrame) : List Byte := P.som :: message P (rawFrame P f)

/-- The state whose next step fetches and runs a row's instruction. A command word is presented at the
command port. A frame kind runs inside POLL: its message is the content of `WIRE_RX` and the command is
POLL (log entry 12). -/
def State.withFetchWord (s : State) (nbits w : Nat) : State :=
  if nbits = 32 then { s with cmd := BitVec.ofNat 32 w }
  else
    { s with cmd := 0x01000000, wireRx := wireMessage Config.params (headerFrame w) }

end Sys2Proof.Machine
end

