-- ==== Sys2Proof/Machine/Environment.lean ====
section
/-!
DEFINITION. The other agents of rule R7, between two commands: the host, which presents a command word
with the time or asserts hardware reset, and the wire environment, which appends bytes to `WIRE_RX` and
removes messages from `WIRE_TX` (rules R44, R45, R70, R280; log entry 8).
-/

namespace Sys2Proof.Machine

/-- What can happen to the block (rule R7). -/
inductive Event
  /-- The host presents a command word and the time, and the block executes it. -/
  | command (cmd : Word32) (now : Time)
  /-- The wire environment appends bytes to `WIRE_RX`; they may be any bytes (rule R70). -/
  | arrive (bytes : List Byte)
  /-- The wire environment removes the oldest message of `WIRE_TX`, to deliver or to lose it. -/
  | takeMessage
  /-- The host asserts hardware reset. -/
  | hardwareReset
  deriving DecidableEq, Repr

/-- The ports with a command and the `TIME_BITS`-bit time presented (rule R45). -/
def present (P : Params) (cmd : Word32) (now : Time) (s : State) : State :=
  { s with cmd := cmd, now := clip P now }

/-- Bytes arrive on the wire (rules R44, R258). -/
def arrive (bytes : List Byte) (s : State) : State := { s with wireRx := s.wireRx ++ bytes }

/-- The transport takes the oldest message (rule R44). -/
def takeMessage (s : State) : State := { s with wireTx := s.wireTx.tail }

/-- What one event does. -/
def eventStep (e : Event) (s : State) : Host.Outcome State Fault Refusal :=
  match e with
  | .command cmd now => step (present Config.params cmd now s)
  | .arrive bytes => .next (arrive bytes s)
  | .takeMessage => .next (takeMessage s)
  | .hardwareReset => .next (hardwareReset Config.params s)

end Sys2Proof.Machine
end

