-- ==== Sys2Proof/Safety.lean ====
section
/-!
DEFINITION. What counts as a well-formed state of the block, and a reachable one: the invariants of the
spec, each under the rule that states it. They are true between commands (rules R23, R29, R34).
-/

namespace Sys2Proof.Machine

/-- Every slot index that some holder names, once per mention (rule R23). -/
def holders (s : State) : List Nat :=
  s.free ++ s.txq ++ s.ch.flatMap (fun k => k.inq) ++ s.ch.filterMap (fun k => k.asm)

/-- The slots the inbound queues hold, over all channels (rule R34). -/
def unread (s : State) : List Nat := s.ch.flatMap (fun k => k.inq)

/-- The slots the assembly buffers hold, over all channels. -/
def assembling (s : State) : List Nat := s.ch.filterMap (fun k => k.asm)

/-- The byte memories are canonical (log entry 6) and the accumulator is within its capacity (rule
R35). -/
structure StorageWf (P : Params) (s : State) : Prop where
  pay_canonical : Memory.wf (payBlank P s) s.pay = true
  acc_canonical : Memory.wf (accBlank P s) s.acc = true
  accLen_le : s.accLen ≤ P.accCap

/-- A channel that is not registered holds nothing (rule R36). -/
def Channel.idleIfUnregistered (k : Channel) : Prop :=
  k.reg = false → k.cstate = .disc ∧ k.inq = [] ∧ k.rdOff = 0 ∧ k.asm = none

/-- The tables have their sizes (rule R20), every slot has exactly one holder (rule R23), and
unregistered channels hold none (rule R36). -/
structure OwnershipWf (P : Params) (s : State) : Prop where
  hdr_length : s.hdr.length = P.nbuf
  ch_length : s.ch.length = P.nchan
  one_holder : (holders s).Perm (List.range P.nbuf)
  unregistered_idle : ∀ k ∈ s.ch, k.idleIfUnregistered

/-- The transmit half (rules R25, R29). -/
structure TransmitWf (P : Params) (s : State) : Prop where
  /-- Rule R29 (i). -/
  idle_empty : s.txState.phase = false → s.txq = []
  /-- Rule R29 (ii): the head carries DATA of the awaited sequence. -/
  head_sequence : s.txState.phase = true →
    ∃ h rest, s.txq = h :: rest ∧ (slotOf h s).atype = .data s.txState.seq
  /-- Rules R25, R133: the transmit side leaves `RX_RESERVE` slots. -/
  bounded : s.txq.length + (assembling s).length + P.rxReserve ≤ P.nbuf
  /-- A queued frame is payload or a handshake request: the block queues no other (rule R103). -/
  queued_kind : ∀ i ∈ s.txq, (slotOf i s).ctype ≠ .reset

/-- The receive half (rule R34). -/
structure ReceiveWf (s : State) : Prop where
  /-- Rule R34 (i), (ii) and its converse between commands: one unread slot exactly while a delivered
  frame is not acknowledged. -/
  unread_count : (unread s).length = if s.rxState.phase then 1 else 0
  /-- Rule R34 (iii). -/
  unread_slot : ∀ i ∈ unread s, 1 ≤ (slotOf i s).len ∧ (slotOf i s).ctype = .noop

/-- One channel (rules R38 to R40). -/
structure ChannelWf (P : Params) (c : Nat) (k : Channel) (s : State) : Prop where
  /-- Rule R38: the stored status is one of three. -/
  stored_status : k.cstat = .success ∨ k.cstat = .pending ∨ k.cstat = .peerDisconnected
  /-- Rule R39: `INQ` empty implies `rdOff = 0`. -/
  rdOff_empty : k.inq = [] → k.rdOff = 0
  /-- Rule R39: `rdOff` is within the head slot. -/
  rdOff_head : ∀ h rest, k.inq = h :: rest → k.rdOff < (slotOf h s).len
  /-- Rule R40. -/
  assembly : ∀ a, k.asm = some a →
    k.cstate = .connected ∧ (slotOf a s).chan.toNat = c ∧ (slotOf a s).ctype = .noop ∧
      1 ≤ (slotOf a s).len ∧ (slotOf a s).len < P.maxpay

/-- Every slot's byte count is in its field's range (rule R21; of a slot that nothing has written since a
hardware reset it is log entry 2). -/
def LengthsWf (P : Params) (s : State) : Prop := ∀ h ∈ s.hdr, h.len ≤ P.maxpay

/-- `TIME_BITS` holds the time (rules R20, R76). -/
def timeFits (P : Params) (t : Time) : Prop := t.toNat < 2 ^ P.timeBits

/-- The response word: `ST` is one of the six statuses, bits `[23:16]` are zero, and `DATA` is zero unless
the command succeeds (rules R94, R95; `PENDING` comes with no result either, rules R193, R194). -/
structure ResponseWf (w : Word32) : Prop where
  status_known : (w.extractLsb' 24 8).toNat ≤ 5
  zero : w.extractLsb' 16 8 = 0
  no_data : w.extractLsb' 24 8 ≠ 0 → w.extractLsb' 0 16 = 0

/-- What the registers and ports hold is within their widths, and means what the spec says it does. -/
structure RegistersWf (P : Params) (s : State) : Prop where
  /-- Rule R45: `NOW` has `TIME_BITS` bits. -/
  now_fits : timeFits P s.now
  /-- Rule R27. -/
  txT0_fits : timeFits P s.txT0
  /-- Rule R41. -/
  channel_times_fit : ∀ k ∈ s.ch, timeFits P k.cT0 ∧ timeFits P k.cTmo
  /-- Rule R35: a byte was dropped only because the accumulator was full. -/
  overflow_full : s.accOvf = true → s.accLen = P.accCap
  /-- Rule R44: a message is a non-empty byte sequence. -/
  messages_nonempty : ∀ m ∈ s.wireTx, m ≠ []
  /-- Rules R94, R95. -/
  response : ResponseWf s.rsp
  /-- Rule R144: a frame is retransmitted at most `RETRY_MAX` times, if there is a ceiling. -/
  retries_le : P.retryMax ≠ 0 → s.txRetries.toNat ≤ P.retryMax

/-- A well-formed state: the invariants of the spec, and the canonical form of the byte memories, which is
the model's own (log entry 6). That an unspecified slot's byte count is in its range is log entry 2. -/
structure WellFormedState (P : Params) (s : State) : Prop where
  storage : StorageWf P s
  registers : RegistersWf P s
  ownership : OwnershipWf P s
  transmit : TransmitWf P s
  receive : ReceiveWf s
  channels : ∀ c k, s.ch[c]? = some k → ChannelWf P c k s
  lengths : LengthsWf P s

/-- The states that the block can be in between commands, whatever the host and the wire do. -/
inductive Reachable : State → Prop
  | reset : Reachable State.reset
  | event {s t : State} (e : Event) : Reachable s → eventStep e s = .next t → Reachable t

/-- An instruction that is a host command. -/
def isCommand (P : Params) (i : Instr) : Prop := ∃ w, encode P i = .command w

/-- An instruction that is a received frame. -/
def isFrame (P : Params) (i : Instr) : Prop := ∃ r, encode P i = .frame r

/-- Between `s` and `t` a frame with `n` payload bytes was stored into slot `i`: every other slot's
header, and every payload byte but the first `n` of slot `i`, reads as before. -/
def StoredIn (P : Params) (i n : Nat) (s t : State) : Prop :=
  t.hdr.length = s.hdr.length ∧ (∀ j, j ≠ i → slotOf j t = slotOf j s) ∧
    ∀ j o, o < 256 → ¬(j = i ∧ o < n) → memRead P j o t = memRead P j o s

/-! ### The words of the statements -/

/-- Channel id `ch` is below `NCHAN` and registered: it resolves (rules R68, R207). -/
def Registered (P : Params) (ch : Byte) (s : State) : Prop :=
  ch.toNat < P.nchan ∧ (chanOf ch.toNat s).reg = true

/-- A channel after its handshake timer was checked (rule R205). -/
def timedChannel (P : Params) (s : State) (k : Channel) : Channel :=
  if k.reg = true ∧ ((k.cstate = .connPend ∧ k.cTmo.toNat ≤ elapsed P s k.cT0) ∨
      (k.cstate = .discPend ∧ P.tDisc ≤ elapsed P s k.cT0)) then
    { k with cstate := .disc, cstat := .pending }
  else k

/-- A channel after a frame it sent, of type `ct`, was acknowledged (rules R143, R202, R204). -/
def ackedChannel (ct : CType) (k : Channel) : Channel :=
  if k.reg = true ∧ ct = .connreq ∧ k.cstate = .connPend then
    { k with cstate := .connected, cstat := .success }
  else if k.reg = true ∧ ct = .discreq ∧ k.cstate = .discPend then
    { k with cstate := .disc, cstat := .success }
  else k

/-- The six kinds of a sequenced frame, each with its type and its sequence (rule R103). -/
def sequencedFrames (chan : Byte) (pay : List Byte) : List (Instr × CType × Bool) :=
  [(.data0Noop chan pay, .noop, false), (.data1Noop chan pay, .noop, true),
    (.data0Connreq chan pay, .connreq, false), (.data1Connreq chan pay, .connreq, true),
    (.data0Discreq chan pay, .discreq, false), (.data1Discreq chan pay, .discreq, true)]

/-- The twelve kinds of a frame with a reserved tag bit (rule R104). -/
def reservedFrames (chan ctype atype : Byte) (pay : List Byte) : List Instr :=
  [.frameReservedC2 chan ctype atype pay, .frameReservedC3 chan ctype atype pay,
    .frameReservedC4 chan ctype atype pay, .frameReservedC5 chan ctype atype pay,
    .frameReservedC6 chan ctype atype pay, .frameReservedC7 chan ctype atype pay,
    .frameReservedA2 chan ctype atype pay, .frameReservedA3 chan ctype atype pay,
    .frameReservedA4 chan ctype atype pay, .frameReservedA5 chan ctype atype pay,
    .frameReservedA6 chan ctype atype pay, .frameReservedA7 chan ctype atype pay]

/-- What hardware reset leaves in every element it gives a value (rules R48, R280). -/
structure ResetValues (P : Params) (s : State) : Prop where
  hdr_length : s.hdr.length = P.nbuf
  free : s.free = List.range P.nbuf
  txq : s.txq = []
  txState : s.txState = .rdy false
  txT0 : s.txT0 = 0
  txRetries : s.txRetries = 0
  rxState : s.rxState = .await false
  accLen : s.accLen = 0
  accOvf : s.accOvf = false
  ch_length : s.ch.length = P.nchan
  ch : ∀ k ∈ s.ch, k.reg = false ∧ k.cstate = .disc ∧ k.cstat = .success ∧ k.inq = [] ∧
    k.rdOff = 0 ∧ k.asm = none ∧ k.cT0 = 0 ∧ k.cTmo = 0
  rsp : s.rsp = 0

end Sys2Proof.Machine
end

