-- ==== Sys2Proof/Certificates/Slice0/Obligations.lean ====
section
/-!
DEFINITION. The statements for the provers. Each docstring names the rule it formalises. `Config.params`
is opaque, so each statement about `exec` or `step` is about every parameter set rule R6 admits. A frame
is said by an equation: every field that the right side does not name is as before.
-/

open Sys2Proof Sys2Proof.Machine

/-! ### Encodings -/

/-- Decoding the encoding of a well-formed instruction gives it back, with every operand at every value
(rules R91 to R93, R98 to R104). -/
def Obligations.DecodeOfEncodeIsTheInstruction : Prop :=
  ∀ (P : Params) (i : Instr), i.wellFormed P = true → decode P (encode P i) = .ok i

/-- A raw frame that decodes is the encoding of what it decodes to, and that is well formed: no byte of
it is dropped (rules R98, R102 to R104). -/
def Obligations.AcceptedFrameIsTheEncodingOfItsInstruction : Prop :=
  ∀ (P : Params) (r : List Byte) (i : Instr),
    decodeRaw P r = .ok i → i.wellFormed P = true ∧ encode P i = .frame r

/-- Which fields of a command word are read (rules R91, R93): no field by NOP, POLL, LINKSTAT and the
reserved opcodes, no ARG but by CONNECT, which reads it whole, and WRITE, which reads its low byte. -/
def Obligations.IgnoredCommandFieldsHaveNoEffect : Prop :=
  ∀ (op ch ch' : Byte) (arg arg' : BitVec 16),
    ((op = 0x00 ∨ op = 0x01 ∨ op = 0x0C ∨ 0x0D ≤ op.toNat) →
      decodeCommand (commandWord op ch arg) = decodeCommand (commandWord op ch' arg')) ∧
    ((op ≠ 0x04 ∧ op ≠ 0x06) →
      decodeCommand (commandWord op ch arg) = decodeCommand (commandWord op ch arg')) ∧
    decodeCommand (commandWord 0x04 ch arg) = .connect ch arg ∧
    decodeCommand (commandWord 0x06 ch arg) = .write ch (arg.extractLsb' 0 8)

/-- Words written out from rules R92, R100, R101 and R103, and what they stand for. -/
def Obligations.WordsOfTheSpecDecode : Prop :=
  decodeTableWord 32 0x00FFFFFF = some .nop ∧
  decodeTableWord 32 0x01000000 = some .poll ∧
  decodeTableWord 32 0x02030000 = some (.openChan 3) ∧
  decodeTableWord 32 0x04010005 = some (.connect 1 5) ∧
  decodeTableWord 32 0x060012AB = some (.write 0 0xAB) ∧
  decodeTableWord 32 0x0C000000 = some .linkstat ∧
  decodeTableWord 32 0x0F000000 = some (.reserved0E0F 1) ∧
  decodeTableWord 24 0x000400 = some (.frameReservedC2 0 4 0 []) ∧
  decodeTableWord 24 0x000301 = some (.frameReset 0 (.ack false) []) ∧
  decodeTableWord 24 0x090201 = some (.ack0 9 .discreq []) ∧
  decodeTableWord 24 0x010102 = some (.data1Connreq 1 [])

/-- The acknowledgment and the reset notification, byte by byte: `ATYPE` is `(N << 1) | 1`, the checksum
goes most significant byte first, `EOM` ends the message (rules R102, R106, R147 to R149). -/
def Obligations.AckAndResetMessagesAreBuiltFromConstants : Prop :=
  ∀ (P : Params) (n : Bool) (chan : Byte),
    ackMessage P n =
      P.encode (([0, 0, if n then 3 else 1] : List Byte) ++
        [(P.crc16 [0, 0, if n then 3 else 1] >>> 8).setWidth 8,
          (P.crc16 [0, 0, if n then 3 else 1]).setWidth 8]) ++ [P.eom] ∧
    resetMessage P chan =
      P.encode (([chan, 3, 0] : List Byte) ++
        [(P.crc16 [chan, 3, 0] >>> 8).setWidth 8, (P.crc16 [chan, 3, 0]).setWidth 8]) ++ [P.eom]

/-- `Validate` succeeds on exactly the messages that pass every check, and returns their fields (rule
R162); the tags are kept as whole bytes below 4. -/
def Obligations.ValidateAcceptsExactlyTheGoodMessages : Prop :=
  ∀ (P : Params) (e : List Byte) (ovf : Bool) (f : RawFrame),
    validate P e ovf = some f ↔
      ovf = false ∧ ∃ r, P.decode e = some r ∧ 5 ≤ r.length ∧ r.length ≤ P.maxpay + 5 ∧
        (P.crc16 (r.take (r.length - 2))).toNat =
          (r.getD (r.length - 2) 0).toNat * 256 + (r.getD (r.length - 1) 0).toNat ∧
        (r.getD 1 0).toNat < 4 ∧ (r.getD 2 0).toNat < 4 ∧
        f = ⟨r.getD 0 0, r.getD 1 0, r.getD 2 0, (r.drop 3).take (r.length - 5)⟩

/-! ### The step -/

/-- A step runs the instruction that the command word decodes to, and nothing else (rules R10, R230). -/
def Obligations.StepRunsTheDecodedCommand : Prop :=
  ∀ (s : State) (i : Instr),
    decode Config.params (.command s.cmd) = .ok i → step s = exec i s

/-- Every command and every frame has a next state: no fault, no refusal (rules R61, R305). -/
def Obligations.EveryInstructionHasANextState : Prop :=
  ∀ (i : Instr) (s : State), ∃ t, exec i s = .next t

/-- When the accumulated message decodes to a frame, what the terminator does (rules R161 to R163, and
R104 for the frames that validation turns away) is that frame's meaning. That the meaning is defined so is
the model's choice of log entry 20. -/
def Obligations.FrameMeaningIsItsMessagesMeaning : Prop :=
  ∀ (s : State) (i : Instr),
    decodeMessage Config.params (accumulated Config.params s) s.accOvf = .ok i →
      exec i s = .next (rxMessage Config.params s)

/-- A POLL that finds one whole message, start marker, encoded frame and terminator, runs the frame's
meaning on the state whose accumulator holds the encoded frame, then the timers (rules R106, R160, R161,
R232). The meaning of a frame is the model's choice of log entry 20. -/
def Obligations.PollRunsTheReceivedFrame : Prop :=
  ∀ (s : State) (i : Instr) (r : List Byte),
    encode Config.params i = .frame r → i.wellFormed Config.params = true →
    s.wireRx = [Config.params.som] ++ Config.params.encode r ++ [Config.params.eom] →
    ∃ s1 t,
      s1 = { s with wireRx := [], acc := s1.acc, accLen := s1.accLen, accOvf := false } ∧
      accumulated Config.params s1 = Config.params.encode r ∧
      exec i s1 = .next t ∧
      exec .poll s = .next (pollTimers Config.params t)

/-- What a received byte does, by its class (rules R114, R160): the terminator ends the message, the start
marker clears the accumulator, a data byte goes to `ACC[accLen]`, or sets `accOvf` when the accumulator is
full. So a POLL that finds data bytes alone keeps them for the next one, up to the capacity; a dropped
byte sets `accOvf`; and a message is accepted without a start marker, and however many POLLs it is spread
over (rules R47, R106, R232). The meaning of a frame is the model's choice of log entry 20. -/
def Obligations.ReceivedBytesAccumulateUntilTheTerminator : Prop :=
  (∀ (P : Params) (b : Byte) (s : State),
    (b = P.eom → rxByte P b s = rxMessage P s) ∧
    (b = P.som → rxByte P b s = { s with accLen := 0, accOvf := false }) ∧
    (b ≠ P.eom → b ≠ P.som → s.accLen < P.accCap →
      rxByte P b s = { s with acc := (rxByte P b s).acc, accLen := s.accLen + 1 } ∧
      ∀ o, Memory.read (accBlank P s) (rxByte P b s).acc o =
        if o = s.accLen then b else Memory.read (accBlank P s) s.acc o) ∧
    (b ≠ P.eom → b ≠ P.som → P.accCap ≤ s.accLen → rxByte P b s = { s with accOvf := true })) ∧
  (∀ s : State, (∀ b ∈ s.wireRx, b ≠ Config.params.eom ∧ b ≠ Config.params.som) →
    s.accLen ≤ Config.params.accCap →
    ∃ s1,
      s1 = { s with
        wireRx := []
        acc := s1.acc
        accLen := min (s.accLen + s.wireRx.length) Config.params.accCap
        accOvf := s.accOvf || decide (Config.params.accCap < s.accLen + s.wireRx.length) } ∧
      accumulated Config.params s1 =
        (accumulated Config.params s ++ s.wireRx).take Config.params.accCap ∧
      exec .poll s = .next (pollTimers Config.params s1) ∧
      ((s.txState.phase = false ∨ elapsed Config.params s s.txT0 < Config.params.tRetx ∨
          Config.params.retryMax = 0 ∨ s.txRetries.toNat < Config.params.retryMax) →
        (pollTimers Config.params s1).acc = s1.acc ∧
        (pollTimers Config.params s1).accLen = s1.accLen ∧
        (pollTimers Config.params s1).accOvf = s1.accOvf)) ∧
  (∀ (s : State) (i : Instr) (r bs : List Byte),
    encode Config.params i = .frame r → i.wellFormed Config.params = true →
    accumulated Config.params s ++ bs = Config.params.encode r → s.accOvf = false →
    s.wireRx = bs ++ [Config.params.eom] →
    ∃ s1 t,
      s1 = { s with wireRx := [], acc := s1.acc, accLen := (Config.params.encode r).length } ∧
      accumulated Config.params s1 = Config.params.encode r ∧
      exec i s1 = .next t ∧
      exec .poll s = .next (pollTimers Config.params t))

/-- The two silent discards: a message that fails a check costs one turn of `FREE` (rule R251); with no
free slot a message is lost, whatever it was (rule R252). The accumulator is cleared, nothing else
changes. That the meaning of a frame kind is lost so too rests on the model's choice of log entry 20. -/
def Obligations.DiscardedMessageHasNoOtherEffect : Prop :=
  (∀ (P : Params) (s : State) (i : Nat) (rest : List Nat),
    s.free = i :: rest → validate P (accumulated P s) s.accOvf = none →
      rxMessage P s = { s with free := rest ++ [i], accLen := 0, accOvf := false }) ∧
  (∀ (P : Params) (s : State),
    s.free = [] → rxMessage P s = { s with accLen := 0, accOvf := false }) ∧
  (∀ (i : Instr) (s : State),
    isFrame Config.params i → s.free = [] →
      exec i s = .next { s with accLen := 0, accOvf := false })

/-! ### Commands -/

/-- NOP answers `SUCCESS` and a reserved opcode answers `INVALID`; both change nothing else, whatever
`CH` and `ARG` hold (rules R105, R231, R234). -/
def Obligations.NopAndReservedOpcodesOnlyAnswer : Prop :=
  (∀ s : State, exec .nop s = .next { s with rsp := 0 }) ∧
  (∀ s : State, s.cmd.toNat / 2 ^ 24 = 0 → step s = .next { s with rsp := 0 }) ∧
  (∀ (s : State) (b : BitVec 1) (c : BitVec 4) (d : BitVec 5) (e : BitVec 6) (f : BitVec 7) (i : Instr),
    i ∈ [.reserved0D, .reserved0E0F b, .reserved101F c, .reserved203F d, .reserved407F e,
      .reserved80FF f] → exec i s = .next { s with rsp := 0x04000000 }) ∧
  (∀ s : State, 0x0D ≤ s.cmd.toNat / 2 ^ 24 → step s = .next { s with rsp := 0x04000000 })

/-- LINKSTAT answers the number of free slots and the two state numbers, and changes nothing else
(rules R28, R33, R97, R233). `FREE` holds at most `NBUF ≤ 255` slots. -/
def Obligations.LinkstatReportsTheLink : Prop :=
  ∀ s : State, s.free.length ≤ 255 →
    exec .linkstat s = .next
      { s with
        rsp := BitVec.ofNat 32 (s.free.length * 256 +
          (match s.rxState with
            | .await false => 0 | .bufret false => 1 | .await true => 2 | .bufret true => 3) * 4 +
          (match s.txState with
            | .rdy false => 0 | .wait false => 1 | .rdy true => 2 | .wait true => 3)) }

/-- STATUS answers the channel's stored status, registration and state, for every id below `NCHAN`, and
`INVALID` for the others; it changes nothing else (rules R37, R95, R96, R200). -/
def Obligations.StatusReportsTheChannel : Prop :=
  ∀ (ch : Byte) (s : State),
    exec (.status ch) s = .next
      (if Config.params.nchan ≤ ch.toNat then { s with rsp := 0x04000000 }
      else
        { s with
          rsp := BitVec.ofNat 32
            ((match (chanOf ch.toNat s).cstat with
              | .success => 0 | .busy => 1 | .pending => 2 | .peerDisconnected => 3 | .invalid => 4
              | .empty => 5) * 16 +
            (if (chanOf ch.toNat s).reg = true then 4 else 0) +
            (match (chanOf ch.toNat s).cstate with
              | .disc => 0 | .connPend => 1 | .connected => 2 | .discPend => 3)) })

/-- A channel command but OPEN and STATUS answers `INVALID`, and changes nothing else, when its id is
not below `NCHAN` or not registered (rule R207). -/
def Obligations.UnregisteredChannelAnswersInvalid : Prop :=
  ∀ (ch v : Byte) (sec : BitVec 16) (s : State) (i : Instr),
    i ∈ [.closeChan ch, .connect ch sec, .disconnect ch, .write ch v, .flush ch, .read ch, .peek ch,
      .avail ch] →
    ¬Registered Config.params ch s →
      exec i s = .next { s with rsp := 0x04000000 }

/-- OPEN registers an unregistered id below `NCHAN`, and answers `INVALID` otherwise; nothing is sent
(rule R191). -/
def Obligations.OpenRegistersTheChannel : Prop :=
  ∀ (ch : Byte) (s : State),
    exec (.openChan ch) s = .next
      (if Config.params.nchan ≤ ch.toNat ∨ (chanOf ch.toNat s).reg = true then
        { s with rsp := 0x04000000 }
      else
        { s with
          ch := s.ch.set ch.toNat
            { chanOf ch.toNat s with
              reg := true, cstate := .disc, cstat := .success, rdOff := 0, asm := none }
          rsp := 0 })

/-- CLOSE returns the assembly slot and then the unread slots to the pool; the first unread slot's release
sends the outstanding ACK; nothing else is sent and `TXQ` stays (rules R166, R192). -/
def Obligations.CloseReturnsEverySlot : Prop :=
  ∀ (ch : Byte) (s : State), Registered Config.params ch s →
    ((chanOf ch.toNat s).inq = [] ∨ s.rxState.phase = false →
      exec (.closeChan ch) s = .next
        { s with
          free := s.free ++ (chanOf ch.toNat s).asm.toList ++ (chanOf ch.toNat s).inq
          ch := s.ch.set ch.toNat
            { chanOf ch.toNat s with
              reg := false, cstate := .disc, cstat := .success, inq := [], rdOff := 0, asm := none }
          rsp := 0 }) ∧
    (∀ n, (chanOf ch.toNat s).inq ≠ [] → s.rxState = .bufret n →
      exec (.closeChan ch) s = .next
        { s with
          free := s.free ++ (chanOf ch.toNat s).asm.toList ++ (chanOf ch.toNat s).inq
          rxState := .await (!n)
          wireTx := s.wireTx ++ [ackMessage Config.params n]
          ch := s.ch.set ch.toNat
            { chanOf ch.toNat s with
              reg := false, cstate := .disc, cstat := .success, inq := [], rdOff := 0, asm := none }
          rsp := 0 })

/-- The answers of CONNECT and DISCONNECT when they start no handshake: nothing but the response changes
(rules R193, R194). -/
def Obligations.HandshakeCommandsAnswerByChannelState : Prop :=
  ∀ (ch : Byte) (sec : BitVec 16) (s : State), Registered Config.params ch s →
    ((chanOf ch.toNat s).cstate = .connPend →
      exec (.connect ch sec) s = .next { s with rsp := 0x02000000 } ∧
      exec (.disconnect ch) s = .next { s with rsp := 0x01000000 }) ∧
    ((chanOf ch.toNat s).cstate = .discPend →
      exec (.connect ch sec) s = .next { s with rsp := 0x01000000 } ∧
      exec (.disconnect ch) s = .next { s with rsp := 0x01000000 }) ∧
    ((chanOf ch.toNat s).cstate = .connected → exec (.connect ch sec) s = .next { s with rsp := 0 }) ∧
    ((chanOf ch.toNat s).cstate = .disc → exec (.disconnect ch) s = .next { s with rsp := 0 }) ∧
    ((chanOf ch.toNat s).cstate = .disc → s.free.length ≤ Config.params.rxReserve →
      exec (.connect ch sec) s = .next { s with rsp := 0x01000000 }) ∧
    ((chanOf ch.toNat s).cstate = .connected → s.free.length ≤ Config.params.rxReserve →
      exec (.disconnect ch) s = .next { s with rsp := 0x01000000 })

/-- CONNECT on a disconnected channel with a slot to spare takes the oldest free slot for a
connect-request, starts the timeout of `t * TICK_HZ` ticks, and sends the request at once if nothing is
in flight (rules R77, R140, R142, R193). -/
def Obligations.ConnectSendsARequest : Prop :=
  ∀ (ch : Byte) (sec : BitVec 16) (s : State) (i : Nat) (rest : List Nat),
    Registered Config.params ch s → (chanOf ch.toNat s).cstate = .disc →
    s.free = i :: rest → Config.params.rxReserve ≤ rest.length → i < s.hdr.length →
    (∀ n, s.txState = .rdy n → s.txq = [] →
      exec (.connect ch sec) s = .next
        { s with
          free := rest
          hdr := s.hdr.set i { chan := ch, ctype := .connreq, atype := .data n, len := 0 }
          ch := s.ch.set ch.toNat
            { chanOf ch.toNat s with
              cstate := .connPend, cstat := .pending, cT0 := clip Config.params s.now,
              cTmo := BitVec.ofNat 64 (sec.toNat * Config.params.tickHz) }
          txq := [i]
          txT0 := clip Config.params s.now
          txRetries := 0
          txState := .wait n
          wireTx := s.wireTx ++
            [message Config.params (raw Config.params ch .connreq (.data n) [])]
          rsp := 0x02000000 }) ∧
    (∀ n, s.txState = .wait n →
      exec (.connect ch sec) s = .next
        { s with
          free := rest
          hdr := s.hdr.set i { chan := ch, ctype := .connreq, atype := .data false, len := 0 }
          ch := s.ch.set ch.toNat
            { chanOf ch.toNat s with
              cstate := .connPend, cstat := .pending, cT0 := clip Config.params s.now,
              cTmo := BitVec.ofNat 64 (sec.toNat * Config.params.tickHz) }
          txq := s.txq ++ [i]
          rsp := 0x02000000 })

/-- DISCONNECT on a connected channel with a slot to spare submits the assembly buffer first, then a
disconnect-request in the oldest free slot; if nothing is in flight the first of the two is sent
(rules R140, R142, R194). -/
def Obligations.DisconnectSendsPendingBytesThenARequest : Prop :=
  ∀ (ch : Byte) (s : State) (i : Nat) (rest : List Nat),
    Registered Config.params ch s → (chanOf ch.toNat s).cstate = .connected →
    s.free = i :: rest → Config.params.rxReserve ≤ rest.length → i < s.hdr.length →
    (∀ n, s.txState = .rdy n → s.txq = [] → (chanOf ch.toNat s).asm = none →
      exec (.disconnect ch) s = .next
        { s with
          free := rest
          hdr := s.hdr.set i { chan := ch, ctype := .discreq, atype := .data n, len := 0 }
          ch := s.ch.set ch.toNat
            { chanOf ch.toNat s with
              cstate := .discPend, cstat := .pending, cT0 := clip Config.params s.now }
          txq := [i]
          txT0 := clip Config.params s.now
          txRetries := 0
          txState := .wait n
          wireTx := s.wireTx ++
            [message Config.params (raw Config.params ch .discreq (.data n) [])]
          rsp := 0x02000000 }) ∧
    (∀ n a, s.txState = .rdy n → s.txq = [] → (chanOf ch.toNat s).asm = some a → a < s.hdr.length →
      exec (.disconnect ch) s = .next
        { s with
          free := rest
          hdr := (s.hdr.set a { slotOf a s with atype := .data n }).set i
            { chan := ch, ctype := .discreq, atype := .data false, len := 0 }
          ch := s.ch.set ch.toNat
            { chanOf ch.toNat s with
              cstate := .discPend, cstat := .pending, cT0 := clip Config.params s.now, asm := none }
          txq := [a, i]
          txT0 := clip Config.params s.now
          txRetries := 0
          txState := .wait n
          wireTx := s.wireTx ++
            [message Config.params
              (raw Config.params (slotOf a s).chan (slotOf a s).ctype (.data n)
                (payload Config.params a (slotOf a s).len s))]
          rsp := 0x02000000 }) ∧
    (∀ n, s.txState = .wait n →
      exec (.disconnect ch) s = .next
        { s with
          free := rest
          hdr := s.hdr.set i { chan := ch, ctype := .discreq, atype := .data false, len := 0 }
          ch := s.ch.set ch.toNat
            { chanOf ch.toNat s with
              cstate := .discPend, cstat := .pending, cT0 := clip Config.params s.now, asm := none }
          txq := s.txq ++ (chanOf ch.toNat s).asm.toList ++ [i]
          rsp := 0x02000000 })

/-- WRITE to a channel that is not connected answers `PEER_DISCONNECTED`; with no assembly buffer and no
slot to spare it answers `BUSY`; the byte is not accepted and nothing else changes (rules R133, R195). -/
def Obligations.WriteIsTurnedAway : Prop :=
  ∀ (ch v : Byte) (s : State), Registered Config.params ch s →
    ((chanOf ch.toNat s).cstate ≠ .connected →
      exec (.write ch v) s = .next { s with rsp := 0x03000000 }) ∧
    ((chanOf ch.toNat s).cstate = .connected → (chanOf ch.toNat s).asm = none →
      s.free.length ≤ Config.params.rxReserve →
      exec (.write ch v) s = .next { s with rsp := 0x01000000 })

/-- WRITE that does not fill the channel's assembly buffer stores the byte behind the buffer's last one;
every other byte of memory reads as before, and nothing is sent. With no buffer and a slot to spare, WRITE
does what it does when the oldest free slot is the channel's empty buffer (rules R133, R195). -/
def Obligations.WriteAppendsAByte : Prop :=
  ∀ (ch v : Byte) (s : State),
    Registered Config.params ch s → (chanOf ch.toNat s).cstate = .connected →
    (∀ a, (chanOf ch.toNat s).asm = some a → (slotOf a s).len + 1 ≠ Config.params.maxpay →
      ∃ t, exec (.write ch v) s = .next t ∧
        t = { s with
          pay := t.pay
          hdr := s.hdr.set a { slotOf a s with len := (slotOf a s).len + 1 }
          rsp := 0 } ∧
        memRead Config.params a (slotOf a s).len t = v ∧
        ∀ x, x ≠ slotAddr a (slotOf a s).len →
          Memory.read (payBlank Config.params t) t.pay x =
            Memory.read (payBlank Config.params s) s.pay x) ∧
    (∀ i rest, (chanOf ch.toNat s).asm = none → s.free = i :: rest →
      Config.params.rxReserve ≤ rest.length →
      exec (.write ch v) s = exec (.write ch v)
        { s with
          free := rest
          hdr := s.hdr.set i { chan := ch, ctype := .noop, atype := .data false, len := 0 }
          ch := s.ch.set ch.toNat { chanOf ch.toNat s with asm := some i } })

/-- The WRITE that fills the assembly buffer submits it: the channel keeps no buffer, and if nothing is in
flight the frame goes out with its bytes and this one (rules R140, R142, R195). -/
def Obligations.WriteSubmitsTheFullFrame : Prop :=
  ∀ (ch v : Byte) (s : State) (a : Nat),
    Registered Config.params ch s → (chanOf ch.toNat s).cstate = .connected →
    (chanOf ch.toNat s).asm = some a → (slotOf a s).len + 1 = Config.params.maxpay →
    a < s.hdr.length →
    (∀ n, s.txState = .rdy n → s.txq = [] →
      ∃ t, exec (.write ch v) s = .next t ∧
        t = { s with
          pay := t.pay
          hdr := s.hdr.set a
            { slotOf a s with len := Config.params.maxpay, atype := .data n }
          ch := s.ch.set ch.toNat { chanOf ch.toNat s with asm := none }
          txq := [a]
          txT0 := clip Config.params s.now
          txRetries := 0
          txState := .wait n
          wireTx := s.wireTx ++
            [message Config.params
              (raw Config.params (slotOf a s).chan (slotOf a s).ctype (.data n)
                (payload Config.params a (slotOf a s).len s ++ [v]))]
          rsp := 0 } ∧
        memRead Config.params a (slotOf a s).len t = v ∧
        ∀ x, x ≠ slotAddr a (slotOf a s).len →
          Memory.read (payBlank Config.params t) t.pay x =
            Memory.read (payBlank Config.params s) s.pay x) ∧
    (∀ n, s.txState = .wait n →
      ∃ t, exec (.write ch v) s = .next t ∧
        t = { s with
          pay := t.pay
          hdr := s.hdr.set a { slotOf a s with len := Config.params.maxpay }
          ch := s.ch.set ch.toNat { chanOf ch.toNat s with asm := none }
          txq := s.txq ++ [a]
          rsp := 0 } ∧
        memRead Config.params a (slotOf a s).len t = v ∧
        ∀ x, x ≠ slotAddr a (slotOf a s).len →
          Memory.read (payBlank Config.params t) t.pay x =
            Memory.read (payBlank Config.params s) s.pay x)

/-- FLUSH submits the assembly buffer, or does nothing when there is none; it always answers `SUCCESS`
(rules R140, R142, R196). -/
def Obligations.FlushSubmitsTheAssemblyBuffer : Prop :=
  ∀ (ch : Byte) (s : State), Registered Config.params ch s →
    ((chanOf ch.toNat s).asm = none → exec (.flush ch) s = .next { s with rsp := 0 }) ∧
    (∀ a n, (chanOf ch.toNat s).asm = some a → a < s.hdr.length → s.txState = .rdy n → s.txq = [] →
      exec (.flush ch) s = .next
        { s with
          hdr := s.hdr.set a { slotOf a s with atype := .data n }
          ch := s.ch.set ch.toNat { chanOf ch.toNat s with asm := none }
          txq := [a]
          txT0 := clip Config.params s.now
          txRetries := 0
          txState := .wait n
          wireTx := s.wireTx ++
            [message Config.params
              (raw Config.params (slotOf a s).chan (slotOf a s).ctype (.data n)
                (payload Config.params a (slotOf a s).len s))]
          rsp := 0 }) ∧
    (∀ a n, (chanOf ch.toNat s).asm = some a → s.txState = .wait n →
      exec (.flush ch) s = .next
        { s with
          ch := s.ch.set ch.toNat { chanOf ch.toNat s with asm := none }
          txq := s.txq ++ [a]
          rsp := 0 })

/-- READ answers `EMPTY` when nothing is queued; else it returns the next byte and moves on, and the last
byte of a slot releases the slot, sends the outstanding ACK and awaits the next sequence (rules R62,
R166, R197). -/
def Obligations.ReadConsumesOneByte : Prop :=
  ∀ (ch : Byte) (s : State), Registered Config.params ch s →
    ((chanOf ch.toNat s).inq = [] → exec (.read ch) s = .next { s with rsp := 0x05000000 }) ∧
    (∀ h rest, (chanOf ch.toNat s).inq = h :: rest →
      (chanOf ch.toNat s).rdOff + 1 ≠ (slotOf h s).len →
      exec (.read ch) s = .next
        { s with
          ch := s.ch.set ch.toNat
            { chanOf ch.toNat s with rdOff := (chanOf ch.toNat s).rdOff + 1 }
          rsp := BitVec.ofNat 32 (memRead Config.params h (chanOf ch.toNat s).rdOff s).toNat }) ∧
    (∀ h rest n, (chanOf ch.toNat s).inq = h :: rest →
      (chanOf ch.toNat s).rdOff + 1 = (slotOf h s).len → s.rxState = .bufret n →
      exec (.read ch) s = .next
        { s with
          free := s.free ++ [h]
          ch := s.ch.set ch.toNat { chanOf ch.toNat s with inq := rest, rdOff := 0 }
          rxState := .await (!n)
          wireTx := s.wireTx ++ [ackMessage Config.params n]
          rsp := BitVec.ofNat 32 (memRead Config.params h (chanOf ch.toNat s).rdOff s).toNat }) ∧
    (∀ h rest n, (chanOf ch.toNat s).inq = h :: rest →
      (chanOf ch.toNat s).rdOff + 1 = (slotOf h s).len → s.rxState = .await n →
      exec (.read ch) s = .next
        { s with
          free := s.free ++ [h]
          ch := s.ch.set ch.toNat { chanOf ch.toNat s with inq := rest, rdOff := 0 }
          rsp := BitVec.ofNat 32 (memRead Config.params h (chanOf ch.toNat s).rdOff s).toNat })

/-- PEEK returns the byte READ would return, or `EMPTY`; AVAIL the number of bytes READ can return. Both
change nothing else (rules R62, R198, R199). -/
def Obligations.PeekAndAvailOnlyReport : Prop :=
  ∀ (ch : Byte) (s : State), Registered Config.params ch s →
    ((chanOf ch.toNat s).inq = [] → exec (.peek ch) s = .next { s with rsp := 0x05000000 }) ∧
    (∀ h rest, (chanOf ch.toNat s).inq = h :: rest →
      exec (.peek ch) s = .next
        { s with
          rsp := BitVec.ofNat 32 (memRead Config.params h (chanOf ch.toNat s).rdOff s).toNat }) ∧
    (∀ n, (chanOf ch.toNat s).rdOff + n = ((chanOf ch.toNat s).inq.map fun h => (slotOf h s).len).sum →
      n < 2 ^ 16 →
      exec (.avail ch) s = .next { s with rsp := BitVec.ofNat 32 n })

/-! ### POLL -/

/-- POLL answers `SUCCESS`, leaves `WIRE_RX` empty, and processes every received byte before any timer
is checked: it does what a POLL does that finds the bytes already processed (rules R232, R259). -/
def Obligations.PollReceivesBeforeItChecksTimers : Prop :=
  ∀ s : State, ∃ t,
    exec .poll s = .next t ∧ t.rsp = 0 ∧ t.wireRx = [] ∧
    exec .poll (rxBytes Config.params s.wireRx { s with wireRx := [] }) = .next t

/-- A POLL that finds no byte runs the timers and nothing else: the head frame is sent again when its
timer has expired, or the link is reset at the retry ceiling; every handshake that has timed out goes to
`DISC` with `PENDING` (rules R76, R77, R144, R205, R232, R262). -/
def Obligations.PollWithNothingReceivedRunsTheTimers : Prop :=
  ∀ s : State, s.wireRx = [] → s.ch.length = Config.params.nchan →
    ((s.txState.phase = false ∨ elapsed Config.params s s.txT0 < Config.params.tRetx) →
      exec .poll s = .next
        { s with ch := s.ch.map (timedChannel Config.params s), rsp := 0 }) ∧
    (∀ h rest, s.txState.phase = true → Config.params.tRetx ≤ elapsed Config.params s s.txT0 →
      s.txq = h :: rest →
      exec .poll s = .next
        (if Config.params.retryMax ≠ 0 ∧ Config.params.retryMax ≤ s.txRetries.toNat then
          { s with
            txq := []
            free := List.range Config.params.nbuf
            txState := .rdy false
            txRetries := 0
            rxState := .await false
            accLen := 0
            accOvf := false
            ch := s.ch.map linkResetChannel
            rsp := 0 }
        else
          { s with
            wireTx := s.wireTx ++ [slotMessage Config.params h s]
            txT0 := clip Config.params s.now
            txRetries := BitVec.ofNat 8 (min (s.txRetries.toNat + 1) 255)
            ch := s.ch.map (timedChannel Config.params s)
            rsp := 0 }))

/-- An ACK that arrives in the same POLL as the retransmission timer's expiry prevents the
retransmission: whatever the time, nothing is sent (rule R232). -/
def Obligations.AckInTheSamePollPreventsRetransmission : Prop :=
  ∀ (s : State) (n : Bool) (h j : Nat) (rest : List Nat),
    s.txState = .wait n → s.txq = [h] → s.free = j :: rest → j < s.hdr.length →
    s.wireRx = [Config.params.som] ++ ackMessage Config.params n →
    ∃ t, exec .poll s = .next t ∧ t.wireTx = s.wireTx ∧ t.txState = .rdy (!n) ∧ t.txq = []

/-- `Elapsed` is the number of ticks that passed, across a wrap of the time, as long as fewer than
`2^TIME_BITS` passed (rule R76). -/
def Obligations.ElapsedIsRightAcrossAWrap : Prop :=
  ∀ (P : Params) (s : State) (t0 : Time) (d : Nat),
    d < 2 ^ P.timeBits →
    s.now.toNat % 2 ^ P.timeBits = (t0.toNat + d) % 2 ^ P.timeBits →
    elapsed P s t0 = d

/-! ### Received frames

The meaning of a frame is what its message's terminator does, with the accumulator cleared and a slot
acquired: the model's choice of log entry 20. -/

/-- A frame with a reserved tag bit is discarded silently: its slot goes round `FREE`, the accumulator is
cleared, and nothing else changes (rules R104, R251). -/
def Obligations.ReservedTagFramesAreDiscarded : Prop :=
  ∀ (chan ctype atype : Byte) (pay : List Byte) (i : Instr) (s : State) (j : Nat) (rest : List Nat),
    i ∈ reservedFrames chan ctype atype pay → i.wellFormed Config.params = true →
    s.free = j :: rest →
    exec i s = .next { s with free := rest ++ [j], accLen := 0, accOvf := false }

/-- A frame tagged RESET resets the link, whatever its channel id, its ARQ type and its payload, in every
state of the transmitter and of the receiver; nothing is sent (rules R163 step 1, R262). -/
def Obligations.ResetFrameResetsTheLink : Prop :=
  ∀ (chan : Byte) (aty : AType) (pay : List Byte) (s : State) (j : Nat) (rest : List Nat),
    pay.length ≤ Config.params.maxpay → s.free = j :: rest → j < s.hdr.length →
    ∃ t, exec (.frameReset chan aty pay) s = .next t ∧
      StoredIn Config.params j pay.length s t ∧
      t = { s with
        hdr := t.hdr
        pay := t.pay
        txq := []
        free := List.range Config.params.nbuf
        txState := .rdy false
        txRetries := 0
        rxState := .await false
        accLen := 0
        accOvf := false
        ch := s.ch.map linkResetChannel }

/-- The awaited ACK, with nothing else queued, frees the frame's slot, flips the sequence, and tells the
frame's channel; nothing is sent, and the ACK's channel id and payload do not matter (rules R143, R202,
R204). -/
def Obligations.AckEndsTheTransmission : Prop :=
  ∀ (chan : Byte) (ct : CType) (pay : List Byte) (m : Bool) (s : State) (h j : Nat) (rest : List Nat),
    ct ≠ .reset → pay.length ≤ Config.params.maxpay → s.free = j :: rest → j < s.hdr.length →
    h ≠ j → s.txState = .wait m → s.txq = [h] → s.ch.length ≤ Config.params.nchan →
    ∃ t, exec (if m then .ack1 chan ct pay else .ack0 chan ct pay) s = .next t ∧
      StoredIn Config.params j pay.length s t ∧
      t = { s with
        hdr := t.hdr
        pay := t.pay
        free := rest ++ [j, h]
        txq := []
        txState := .rdy (!m)
        accLen := 0
        accOvf := false
        ch := s.ch.modify (slotOf h s).chan.toNat (ackedChannel (slotOf h s).ctype) }

/-- The awaited ACK, with another frame queued, does the same and sends that frame at once, as DATA of the
other sequence (rules R142, R143, R202, R204). -/
def Obligations.AckSendsTheNextFrame : Prop :=
  ∀ (chan : Byte) (ct : CType) (pay : List Byte) (m : Bool) (s : State) (h g j : Nat)
    (q rest : List Nat),
    ct ≠ .reset → pay.length ≤ Config.params.maxpay → s.free = j :: rest → j < s.hdr.length →
    h ≠ j → g ≠ j → g < s.hdr.length → (slotOf g s).len ≤ Config.params.maxpay →
    s.txState = .wait m → s.txq = h :: g :: q → s.ch.length ≤ Config.params.nchan →
    ∃ t, exec (if m then .ack1 chan ct pay else .ack0 chan ct pay) s = .next t ∧
      t.hdr.length = s.hdr.length ∧
      slotOf g t = { slotOf g s with atype := .data (!m) } ∧
      (∀ k, k ≠ j → k ≠ g → slotOf k t = slotOf k s) ∧
      (∀ k o, o < 256 → ¬(k = j ∧ o < pay.length) →
        memRead Config.params k o t = memRead Config.params k o s) ∧
      t = { s with
        hdr := t.hdr
        pay := t.pay
        free := rest ++ [j, h]
        txq := g :: q
        txState := .wait (!m)
        txT0 := clip Config.params s.now
        txRetries := 0
        wireTx := s.wireTx ++
          [message Config.params
            (raw Config.params (slotOf g s).chan (slotOf g s).ctype (.data (!m))
              (payload Config.params g (slotOf g s).len s))]
        accLen := 0
        accOvf := false
        ch := s.ch.modify (slotOf h s).chan.toNat (ackedChannel (slotOf h s).ctype) }

/-- A stale ACK, when nothing is in flight or the other sequence is awaited, has no effect but the turn
of its slot through `FREE`: `TxAck` has none (rule R145), and the rest is what any ACK frame does
(rules R161, R163). -/
def Obligations.StaleAckHasNoEffect : Prop :=
  ∀ (chan : Byte) (ct : CType) (pay : List Byte) (m : Bool) (s : State) (j : Nat) (rest : List Nat),
    ct ≠ .reset → pay.length ≤ Config.params.maxpay → s.free = j :: rest → j < s.hdr.length →
    (s.txState.phase = false ∨ s.txState.seq ≠ m) →
    ∃ t, exec (if m then .ack1 chan ct pay else .ack0 chan ct pay) s = .next t ∧
      StoredIn Config.params j pay.length s t ∧
      t = { s with
        hdr := t.hdr, pay := t.pay, free := rest ++ [j], accLen := 0, accOvf := false }

/-- A sequenced frame for an id that is out of range or not registered is dropped and answered with a
reset notification that carries the id; no ACK, no delivery, `rxState` stays, no channel is created
(rules R68, R148, R163 step 3). -/
def Obligations.UnresolvedFrameAnswersAResetNotification : Prop :=
  ∀ (chan : Byte) (pay : List Byte) (i : Instr) (ct : CType) (m : Bool) (s : State) (j : Nat)
    (rest : List Nat),
    (i, ct, m) ∈ sequencedFrames chan pay → pay.length ≤ Config.params.maxpay →
    s.free = j :: rest → j < s.hdr.length → ¬Registered Config.params chan s →
    ∃ t, exec i s = .next t ∧
      StoredIn Config.params j pay.length s t ∧
      t = { s with
        hdr := t.hdr
        pay := t.pay
        free := rest ++ [j]
        wireTx := s.wireTx ++ [resetMessage Config.params chan]
        accLen := 0
        accOvf := false }

/-- The two middle rows of the dispatch table (rule R164): in `BUFRET(N)` a second DATA(N) is ignored; in
`AWAIT(N)` a DATA(1-N) is dropped and its ACK is sent again. -/
def Obligations.DuplicateIsIgnoredAndMissedAckIsRepeated : Prop :=
  ∀ (chan : Byte) (pay : List Byte) (i : Instr) (ct : CType) (m : Bool) (s : State) (j : Nat)
    (rest : List Nat),
    (i, ct, m) ∈ sequencedFrames chan pay → pay.length ≤ Config.params.maxpay →
    s.free = j :: rest → j < s.hdr.length → Registered Config.params chan s →
    (s.rxState = .bufret m →
      ∃ t, exec i s = .next t ∧ StoredIn Config.params j pay.length s t ∧
        t = { s with
          hdr := t.hdr, pay := t.pay, free := rest ++ [j], accLen := 0, accOvf := false }) ∧
    (s.rxState = .await (!m) →
      ∃ t, exec i s = .next t ∧ StoredIn Config.params j pay.length s t ∧
        t = { s with
          hdr := t.hdr
          pay := t.pay
          free := rest ++ [j]
          wireTx := s.wireTx ++ [ackMessage Config.params m]
          accLen := 0
          accOvf := false })

/-- The last row of the dispatch table (rules R164, R262): in `BUFRET(N)` a DATA(1-N) for a registered
channel is a desynchronisation and resets the link; nothing is sent. -/
def Obligations.UnexpectedSequenceResetsTheLink : Prop :=
  ∀ (chan : Byte) (pay : List Byte) (i : Instr) (ct : CType) (m : Bool) (s : State) (j : Nat)
    (rest : List Nat),
    (i, ct, m) ∈ sequencedFrames chan pay → pay.length ≤ Config.params.maxpay →
    s.free = j :: rest → j < s.hdr.length → Registered Config.params chan s →
    s.rxState = .bufret (!m) →
    ∃ t, exec i s = .next t ∧
      StoredIn Config.params j pay.length s t ∧
      t = { s with
        hdr := t.hdr
        pay := t.pay
        txq := []
        free := List.range Config.params.nbuf
        txState := .rdy false
        txRetries := 0
        rxState := .await false
        accLen := 0
        accOvf := false
        ch := s.ch.map linkResetChannel }

/-- The first row of the dispatch table, for payload (rules R164, R165): an awaited, non-empty payload
frame for a channel that is connected or tearing down is put on the channel's inbound queue, its bytes in
the slot; no ACK is sent yet. -/
def Obligations.PayloadIsDeliveredToItsChannel : Prop :=
  ∀ (chan : Byte) (pay : List Byte) (m : Bool) (s : State) (j : Nat) (rest : List Nat),
    0 < pay.length → pay.length ≤ Config.params.maxpay →
    s.free = j :: rest → j < s.hdr.length → Registered Config.params chan s →
    s.rxState = .await m →
    ((chanOf chan.toNat s).cstate = .connected ∨ (chanOf chan.toNat s).cstate = .discPend) →
    ∃ t, exec (if m then .data1Noop chan pay else .data0Noop chan pay) s = .next t ∧
      StoredIn Config.params j pay.length s t ∧
      slotOf j t = { chan := chan, ctype := .noop, atype := .data m, len := pay.length } ∧
      payload Config.params j pay.length t = pay ∧
      t = { s with
        hdr := t.hdr
        pay := t.pay
        free := rest
        rxState := .bufret m
        accLen := 0
        accOvf := false
        ch := s.ch.set chan.toNat
          { chanOf chan.toNat s with inq := (chanOf chan.toNat s).inq ++ [j] } }

/-- An awaited payload frame that is empty, or whose channel is disconnected or connecting, is consumed
and acknowledged at once, and its bytes are dropped (rules R165, R166, R301). -/
def Obligations.UndeliverablePayloadIsAcknowledged : Prop :=
  ∀ (chan : Byte) (pay : List Byte) (m : Bool) (s : State) (j : Nat) (rest : List Nat),
    pay.length ≤ Config.params.maxpay →
    s.free = j :: rest → j < s.hdr.length → Registered Config.params chan s →
    s.rxState = .await m →
    (pay = [] ∨ (chanOf chan.toNat s).cstate = .disc ∨ (chanOf chan.toNat s).cstate = .connPend) →
    ∃ t, exec (if m then .data1Noop chan pay else .data0Noop chan pay) s = .next t ∧
      StoredIn Config.params j pay.length s t ∧
      t = { s with
        hdr := t.hdr
        pay := t.pay
        free := rest ++ [j]
        rxState := .await (!m)
        wireTx := s.wireTx ++ [ackMessage Config.params m]
        accLen := 0
        accOvf := false }

/-- An awaited connect-request connects a disconnected or connecting channel, is ignored by one that is
connected or tearing down, and is acknowledged at once (rules R165, R166, R201). -/
def Obligations.ConnectRequestConnectsTheChannel : Prop :=
  ∀ (chan : Byte) (pay : List Byte) (m : Bool) (s : State) (j : Nat) (rest : List Nat),
    pay.length ≤ Config.params.maxpay →
    s.free = j :: rest → j < s.hdr.length → Registered Config.params chan s →
    s.rxState = .await m →
    ∃ t, exec (if m then .data1Connreq chan pay else .data0Connreq chan pay) s = .next t ∧
      StoredIn Config.params j pay.length s t ∧
      t = { s with
        hdr := t.hdr
        pay := t.pay
        free := rest ++ [j]
        rxState := .await (!m)
        wireTx := s.wireTx ++ [ackMessage Config.params m]
        accLen := 0
        accOvf := false
        ch := s.ch.set chan.toNat
          (if (chanOf chan.toNat s).cstate = .disc ∨ (chanOf chan.toNat s).cstate = .connPend then
            { chanOf chan.toNat s with cstate := .connected, cstat := .success }
          else chanOf chan.toNat s) }

/-- An awaited disconnect-request disconnects a connected channel, whose unsent bytes are lost and whose
assembly slot is released; it is ignored in every other state; it is acknowledged at once (rules R165,
R166, R203). -/
def Obligations.DisconnectRequestDisconnectsTheChannel : Prop :=
  ∀ (chan : Byte) (pay : List Byte) (m : Bool) (s : State) (j : Nat) (rest : List Nat),
    pay.length ≤ Config.params.maxpay →
    s.free = j :: rest → j < s.hdr.length → Registered Config.params chan s →
    s.rxState = .await m →
    ∃ t, exec (if m then .data1Discreq chan pay else .data0Discreq chan pay) s = .next t ∧
      StoredIn Config.params j pay.length s t ∧
      t = { s with
        hdr := t.hdr
        pay := t.pay
        free :=
          if (chanOf chan.toNat s).cstate = .connected then
            rest ++ (chanOf chan.toNat s).asm.toList ++ [j]
          else rest ++ [j]
        rxState := .await (!m)
        wireTx := s.wireTx ++ [ackMessage Config.params m]
        accLen := 0
        accOvf := false
        ch := s.ch.set chan.toNat
          (if (chanOf chan.toNat s).cstate = .connected then
            { chanOf chan.toNat s with cstate := .disc, cstat := .peerDisconnected, asm := none }
          else chanOf chan.toNat s) }

/-- Duplicate suppression (rule R167): the same sequenced frame received twice in a row changes the
channels once. While the first copy awaits its buffer's return the second one changes neither the
receiver nor the wire. -/
def Obligations.SecondCopyOfAFrameIsNotDelivered : Prop :=
  ∀ (chan : Byte) (pay : List Byte) (i : Instr) (ct : CType) (m : Bool) (s t u : State),
    (i, ct, m) ∈ sequencedFrames chan pay → i.wellFormed Config.params = true →
    OwnershipWf Config.params s → Registered Config.params chan s → s.rxState = .await m →
    exec i s = .next t → exec i t = .next u →
    u.ch = t.ch ∧ (t.rxState = .bufret m → u.rxState = .bufret m ∧ u.wireTx = t.wireTx)

/-! ### Link reset and hardware reset -/

/-- Link reset, in every state and whatever the cause (rules R253, R262): the values it establishes, the
channels it disconnects, what it does not touch; the cause leaves no trace, and a second link reset changes
nothing. -/
def Obligations.LinkResetIsTotalAndIdempotent : Prop :=
  ∀ (P : Params) (cause cause' : ResetCause) (s : State),
    linkReset P cause s =
      { s with
        txq := []
        free := List.range P.nbuf
        txState := .rdy false
        txRetries := 0
        rxState := .await false
        accLen := 0
        accOvf := false
        ch := (linkReset P cause s).ch } ∧
    (linkReset P cause s).ch.length = s.ch.length ∧
    (∀ (c : Nat) (k : Channel), s.ch[c]? = some k →
      (linkReset P cause s).ch[c]? = some
        (if k.reg = true ∧ k.cstate ≠ .disc then
          { k with
            inq := [], rdOff := 0, asm := none, cstate := .disc, cstat := .peerDisconnected }
        else { k with inq := [], rdOff := 0, asm := none })) ∧
    linkReset P cause' (linkReset P cause s) = linkReset P cause s ∧
    linkReset P cause' s = linkReset P cause s

/-- Hardware reset gives every element that has a reset value that value, in every state, and leaves both
wire queues; the machine's reset state has the same values (rules R48, R280). -/
def Obligations.HardwareResetEstablishesTheResetValues : Prop :=
  (∀ (P : Params) (s : State),
    ResetValues P (hardwareReset P s) ∧
      (hardwareReset P s).wireRx = s.wireRx ∧ (hardwareReset P s).wireTx = s.wireTx) ∧
  ResetValues Config.params State.reset

/-! ### Invariants -/

/-- The reset state is well formed: it meets the invariants of the spec and the model's own canonical form
of the byte memories (log entry 6); that an unspecified slot's byte count is in its range is the model's
deduction (log entry 2). -/
def Obligations.ResetStateIsWellFormed : Prop :=
  WellFormedState Config.params State.reset

/-- Every step keeps the byte memories in their canonical form and the accumulator within its capacity
(rule R35; the canonical form is the model's own). -/
def Obligations.StepKeepsStorageCanonical : Prop :=
  ∀ s t : State, StorageWf Config.params s → step s = .next t → StorageWf Config.params t

/-- Every step keeps the ownership invariant: every slot has exactly one holder (rule R23), and a channel
that is not registered holds nothing (rule R36). -/
def Obligations.StepKeepsSlotOwnership : Prop :=
  ∀ s t : State, OwnershipWf Config.params s → step s = .next t → OwnershipWf Config.params t

/-- Every step keeps a state well formed: the invariants of the spec (rules R20, R21, R23, R25, R27, R29,
R34 to R36, R38 to R41, R44, R45, R76, R94, R95, R144), and with them the canonical form of the byte
memories, which is the model's own (log entry 6). -/
def Obligations.StepKeepsEveryStateInvariant : Prop :=
  ∀ s t : State,
    WellFormedState Config.params s → step s = .next t → WellFormedState Config.params t

/-- Every event keeps a state well formed: a command with any word and any time, bytes arriving, a message
taken, a hardware reset (rules R7, R10, R44, R45, R280). The reset state is. Of what is kept, the canonical
form of the byte memories is the model's own (log entry 6), and the range of an unspecified slot's byte
count after a hardware reset is its deduction (log entry 2). -/
def Obligations.EveryEventKeepsEveryStateInvariant : Prop :=
  WellFormedState Config.params State.reset ∧
  ∀ (e : Event) (s t : State),
    WellFormedState Config.params s → eventStep e s = .next t → WellFormedState Config.params t

/-- The transmit side leaves the receive half its reserve, less the slot of one unread frame (rules R25,
R34, R133, R292). -/
def Obligations.ReserveStaysForTheReceiveHalf : Prop :=
  ∀ (P : Params) (s : State), WellFormedState P s → P.rxReserve ≤ s.free.length + 1

/-! ### The whole machine -/

/-- A channel's registration changes by OPEN and CLOSE alone: no frame and no other command creates or
removes a channel (rules R36, R207). -/
def Obligations.OnlyOpenAndCloseChangeRegistration : Prop :=
  ∀ (i : Instr) (s t : State),
    exec i s = .next t → (∀ ch, i ≠ .openChan ch) → (∀ ch, i ≠ .closeChan ch) →
    ∀ c, (chanOf c t).reg = (chanOf c s).reg

/-- A channel starts connecting by CONNECT alone and starts disconnecting by DISCONNECT alone (rule
R206). -/
def Obligations.HandshakesStartByCommandAlone : Prop :=
  ∀ (i : Instr) (s t : State) (c : Nat), exec i s = .next t →
    ((chanOf c t).cstate = .connPend → (chanOf c s).cstate ≠ .connPend →
      ∃ ch sec, ch.toNat = c ∧ i = .connect ch sec) ∧
    ((chanOf c t).cstate = .discPend → (chanOf c s).cstate ≠ .discPend →
      ∃ ch, ch.toNat = c ∧ i = .disconnect ch)

/-- No instruction changes the command and time ports or takes back a message; none but POLL takes a
received byte, and one that is no frame, POLL, READ or CLOSE leaves the receive half as it was (rules
R44, R46). -/
def Obligations.PortsAndReceiveHalfChangeOnlyAsStated : Prop :=
  ∀ (i : Instr) (s t : State), exec i s = .next t →
    t.cmd = s.cmd ∧ t.now = s.now ∧ t.epoch = s.epoch ∧
    (∃ ms, t.wireTx = s.wireTx ++ ms) ∧
    (i ≠ .poll → t.wireRx = s.wireRx) ∧
    (isCommand Config.params i → i ≠ .poll → (∀ ch, i ≠ .read ch) → (∀ ch, i ≠ .closeChan ch) →
      t.rxState = s.rxState ∧ t.acc = s.acc ∧ t.accLen = s.accLen ∧ t.accOvf = s.accOvf)

/-- At most one frame in flight (rule R141): while one is unacknowledged, no command that submits sends
anything, and the transmitter keeps waiting for it. -/
def Obligations.NothingNewIsSentWhileAFrameIsInFlight : Prop :=
  ∀ (i : Instr) (s t : State),
    exec i s = .next t → s.txState.phase = true →
    isCommand Config.params i → i ≠ .poll → (∀ ch, i ≠ .read ch) → (∀ ch, i ≠ .closeChan ch) →
    t.wireTx = s.wireTx ∧ t.txState = s.txState ∧ ∃ q, t.txq = s.txq ++ q

/-- A frame in flight is immutable, so every retransmission is the same message: as long as a step leaves
it at the head of `TXQ`, its message stays what it was (rule R74). -/
def Obligations.FrameInFlightKeepsItsMessage : Prop :=
  ∀ (s t : State) (h : Nat),
    WellFormedState Config.params s → step s = .next t →
    s.txState.phase = true → s.txq.head? = some h → t.txq.head? = some h →
    slotMessage Config.params h t = slotMessage Config.params h s

/-- Flow control (rule R169): a frame, a READ or a CLOSE that sends anything leaves a free slot; the ACK
goes out after its slot was released. -/
def Obligations.AckIsSentOnlyWithAFreeSlot : Prop :=
  ∀ (i : Instr) (s t : State),
    exec i s = .next t → t.wireTx ≠ s.wireTx →
    (isFrame Config.params i ∨ (∃ ch, i = .read ch) ∨ ∃ ch, i = .closeChan ch) →
    t.free ≠ []

/-- Every message a step hands to the transport is the encoding of a raw frame with the terminator behind
it, within the receiver's accumulator, and an endpoint with the same parameters validates it as that frame
(rules R103, R106, R146, R162). -/
def Obligations.EveryEmittedMessageIsAValidFrame : Prop :=
  ∀ s t : State, WellFormedState Config.params s → step s = .next t →
    ∃ ms, t.wireTx = s.wireTx ++ ms ∧
      ∀ m ∈ ms, ∃ e f,
        m = e ++ [Config.params.eom] ∧ e = Config.params.encode (rawFrame Config.params f) ∧
        e.length ≤ Config.params.accCap ∧
        validate Config.params e false = some f

/-- The commands that read without side effects give the same answer when repeated (rule R66). -/
def Obligations.ObservationsAreIdempotent : Prop :=
  ∀ (ch : Byte) (i : Instr) (s t : State),
    i ∈ [.nop, .linkstat, .status ch, .peek ch, .avail ch] → exec i s = .next t →
    exec i t = .next t
end

