-- ==== Sys2Proof/Laws/State.lean ====
section
/-!
SUPPORT. What each update of the state does to each field, one lemma per field, so that no proof unfolds
a record update. The lemmas about an update's own field say what it writes; the others say that it leaves
the field alone.
-/

namespace Sys2Proof.Machine

/-! ### `setSlot` -/

@[simp] theorem setSlot_hdr (i : Nat) (h : SlotHeader) (s : State) :
    (setSlot i h s).hdr = s.hdr.set i h := rfl
@[simp] theorem setSlot_pay (i : Nat) (h : SlotHeader) (s : State) :
    (setSlot i h s).pay = s.pay := rfl
@[simp] theorem setSlot_free (i : Nat) (h : SlotHeader) (s : State) :
    (setSlot i h s).free = s.free := rfl
@[simp] theorem setSlot_txState (i : Nat) (h : SlotHeader) (s : State) :
    (setSlot i h s).txState = s.txState := rfl
@[simp] theorem setSlot_txq (i : Nat) (h : SlotHeader) (s : State) :
    (setSlot i h s).txq = s.txq := rfl
@[simp] theorem setSlot_txT0 (i : Nat) (h : SlotHeader) (s : State) :
    (setSlot i h s).txT0 = s.txT0 := rfl
@[simp] theorem setSlot_txRetries (i : Nat) (h : SlotHeader) (s : State) :
    (setSlot i h s).txRetries = s.txRetries := rfl
@[simp] theorem setSlot_rxState (i : Nat) (h : SlotHeader) (s : State) :
    (setSlot i h s).rxState = s.rxState := rfl
@[simp] theorem setSlot_acc (i : Nat) (h : SlotHeader) (s : State) :
    (setSlot i h s).acc = s.acc := rfl
@[simp] theorem setSlot_accLen (i : Nat) (h : SlotHeader) (s : State) :
    (setSlot i h s).accLen = s.accLen := rfl
@[simp] theorem setSlot_accOvf (i : Nat) (h : SlotHeader) (s : State) :
    (setSlot i h s).accOvf = s.accOvf := rfl
@[simp] theorem setSlot_ch (i : Nat) (h : SlotHeader) (s : State) : (setSlot i h s).ch = s.ch := rfl
@[simp] theorem setSlot_wireRx (i : Nat) (h : SlotHeader) (s : State) :
    (setSlot i h s).wireRx = s.wireRx := rfl
@[simp] theorem setSlot_wireTx (i : Nat) (h : SlotHeader) (s : State) :
    (setSlot i h s).wireTx = s.wireTx := rfl
@[simp] theorem setSlot_cmd (i : Nat) (h : SlotHeader) (s : State) :
    (setSlot i h s).cmd = s.cmd := rfl
@[simp] theorem setSlot_now (i : Nat) (h : SlotHeader) (s : State) :
    (setSlot i h s).now = s.now := rfl
@[simp] theorem setSlot_rsp (i : Nat) (h : SlotHeader) (s : State) :
    (setSlot i h s).rsp = s.rsp := rfl
@[simp] theorem setSlot_epoch (i : Nat) (h : SlotHeader) (s : State) :
    (setSlot i h s).epoch = s.epoch := rfl

/-! ### `setChan` -/

@[simp] theorem setChan_hdr (c : Nat) (k : Channel) (s : State) : (setChan c k s).hdr = s.hdr := rfl
@[simp] theorem setChan_pay (c : Nat) (k : Channel) (s : State) : (setChan c k s).pay = s.pay := rfl
@[simp] theorem setChan_free (c : Nat) (k : Channel) (s : State) :
    (setChan c k s).free = s.free := rfl
@[simp] theorem setChan_txState (c : Nat) (k : Channel) (s : State) :
    (setChan c k s).txState = s.txState := rfl
@[simp] theorem setChan_txq (c : Nat) (k : Channel) (s : State) : (setChan c k s).txq = s.txq := rfl
@[simp] theorem setChan_txT0 (c : Nat) (k : Channel) (s : State) :
    (setChan c k s).txT0 = s.txT0 := rfl
@[simp] theorem setChan_txRetries (c : Nat) (k : Channel) (s : State) :
    (setChan c k s).txRetries = s.txRetries := rfl
@[simp] theorem setChan_rxState (c : Nat) (k : Channel) (s : State) :
    (setChan c k s).rxState = s.rxState := rfl
@[simp] theorem setChan_acc (c : Nat) (k : Channel) (s : State) : (setChan c k s).acc = s.acc := rfl
@[simp] theorem setChan_accLen (c : Nat) (k : Channel) (s : State) :
    (setChan c k s).accLen = s.accLen := rfl
@[simp] theorem setChan_accOvf (c : Nat) (k : Channel) (s : State) :
    (setChan c k s).accOvf = s.accOvf := rfl
@[simp] theorem setChan_ch (c : Nat) (k : Channel) (s : State) :
    (setChan c k s).ch = s.ch.set c k := rfl
@[simp] theorem setChan_wireRx (c : Nat) (k : Channel) (s : State) :
    (setChan c k s).wireRx = s.wireRx := rfl
@[simp] theorem setChan_wireTx (c : Nat) (k : Channel) (s : State) :
    (setChan c k s).wireTx = s.wireTx := rfl
@[simp] theorem setChan_cmd (c : Nat) (k : Channel) (s : State) : (setChan c k s).cmd = s.cmd := rfl
@[simp] theorem setChan_now (c : Nat) (k : Channel) (s : State) : (setChan c k s).now = s.now := rfl
@[simp] theorem setChan_rsp (c : Nat) (k : Channel) (s : State) : (setChan c k s).rsp = s.rsp := rfl
@[simp] theorem setChan_epoch (c : Nat) (k : Channel) (s : State) :
    (setChan c k s).epoch = s.epoch := rfl

/-! ### `respond` -/

@[simp] theorem respond_hdr (st : Status) (d : BitVec 16) (s : State) :
    (respond st d s).hdr = s.hdr := rfl
@[simp] theorem respond_pay (st : Status) (d : BitVec 16) (s : State) :
    (respond st d s).pay = s.pay := rfl
@[simp] theorem respond_free (st : Status) (d : BitVec 16) (s : State) :
    (respond st d s).free = s.free := rfl
@[simp] theorem respond_txState (st : Status) (d : BitVec 16) (s : State) :
    (respond st d s).txState = s.txState := rfl
@[simp] theorem respond_txq (st : Status) (d : BitVec 16) (s : State) :
    (respond st d s).txq = s.txq := rfl
@[simp] theorem respond_txT0 (st : Status) (d : BitVec 16) (s : State) :
    (respond st d s).txT0 = s.txT0 := rfl
@[simp] theorem respond_txRetries (st : Status) (d : BitVec 16) (s : State) :
    (respond st d s).txRetries = s.txRetries := rfl
@[simp] theorem respond_rxState (st : Status) (d : BitVec 16) (s : State) :
    (respond st d s).rxState = s.rxState := rfl
@[simp] theorem respond_acc (st : Status) (d : BitVec 16) (s : State) :
    (respond st d s).acc = s.acc := rfl
@[simp] theorem respond_accLen (st : Status) (d : BitVec 16) (s : State) :
    (respond st d s).accLen = s.accLen := rfl
@[simp] theorem respond_accOvf (st : Status) (d : BitVec 16) (s : State) :
    (respond st d s).accOvf = s.accOvf := rfl
@[simp] theorem respond_ch (st : Status) (d : BitVec 16) (s : State) :
    (respond st d s).ch = s.ch := rfl
@[simp] theorem respond_wireRx (st : Status) (d : BitVec 16) (s : State) :
    (respond st d s).wireRx = s.wireRx := rfl
@[simp] theorem respond_wireTx (st : Status) (d : BitVec 16) (s : State) :
    (respond st d s).wireTx = s.wireTx := rfl
@[simp] theorem respond_cmd (st : Status) (d : BitVec 16) (s : State) :
    (respond st d s).cmd = s.cmd := rfl
@[simp] theorem respond_now (st : Status) (d : BitVec 16) (s : State) :
    (respond st d s).now = s.now := rfl
@[simp] theorem respond_rsp (st : Status) (d : BitVec 16) (s : State) :
    (respond st d s).rsp = rspWord st d := rfl
@[simp] theorem respond_epoch (st : Status) (d : BitVec 16) (s : State) :
    (respond st d s).epoch = s.epoch := rfl

/-! ### `poolRelease` -/

@[simp] theorem poolRelease_hdr (i : Nat) (s : State) : (poolRelease i s).hdr = s.hdr := rfl
@[simp] theorem poolRelease_pay (i : Nat) (s : State) : (poolRelease i s).pay = s.pay := rfl
@[simp] theorem poolRelease_free (i : Nat) (s : State) :
    (poolRelease i s).free = s.free ++ [i] := rfl
@[simp] theorem poolRelease_txState (i : Nat) (s : State) :
    (poolRelease i s).txState = s.txState := rfl
@[simp] theorem poolRelease_txq (i : Nat) (s : State) : (poolRelease i s).txq = s.txq := rfl
@[simp] theorem poolRelease_txT0 (i : Nat) (s : State) : (poolRelease i s).txT0 = s.txT0 := rfl
@[simp] theorem poolRelease_txRetries (i : Nat) (s : State) :
    (poolRelease i s).txRetries = s.txRetries := rfl
@[simp] theorem poolRelease_rxState (i : Nat) (s : State) :
    (poolRelease i s).rxState = s.rxState := rfl
@[simp] theorem poolRelease_acc (i : Nat) (s : State) : (poolRelease i s).acc = s.acc := rfl
@[simp] theorem poolRelease_accLen (i : Nat) (s : State) :
    (poolRelease i s).accLen = s.accLen := rfl
@[simp] theorem poolRelease_accOvf (i : Nat) (s : State) :
    (poolRelease i s).accOvf = s.accOvf := rfl
@[simp] theorem poolRelease_ch (i : Nat) (s : State) : (poolRelease i s).ch = s.ch := rfl
@[simp] theorem poolRelease_wireRx (i : Nat) (s : State) :
    (poolRelease i s).wireRx = s.wireRx := rfl
@[simp] theorem poolRelease_wireTx (i : Nat) (s : State) :
    (poolRelease i s).wireTx = s.wireTx := rfl
@[simp] theorem poolRelease_cmd (i : Nat) (s : State) : (poolRelease i s).cmd = s.cmd := rfl
@[simp] theorem poolRelease_now (i : Nat) (s : State) : (poolRelease i s).now = s.now := rfl
@[simp] theorem poolRelease_rsp (i : Nat) (s : State) : (poolRelease i s).rsp = s.rsp := rfl
@[simp] theorem poolRelease_epoch (i : Nat) (s : State) : (poolRelease i s).epoch = s.epoch := rfl

/-! ### `emit` -/

@[simp] theorem emit_hdr (m : List Byte) (s : State) : (emit m s).hdr = s.hdr := rfl
@[simp] theorem emit_pay (m : List Byte) (s : State) : (emit m s).pay = s.pay := rfl
@[simp] theorem emit_free (m : List Byte) (s : State) : (emit m s).free = s.free := rfl
@[simp] theorem emit_txState (m : List Byte) (s : State) : (emit m s).txState = s.txState := rfl
@[simp] theorem emit_txq (m : List Byte) (s : State) : (emit m s).txq = s.txq := rfl
@[simp] theorem emit_txT0 (m : List Byte) (s : State) : (emit m s).txT0 = s.txT0 := rfl
@[simp] theorem emit_txRetries (m : List Byte) (s : State) :
    (emit m s).txRetries = s.txRetries := rfl
@[simp] theorem emit_rxState (m : List Byte) (s : State) : (emit m s).rxState = s.rxState := rfl
@[simp] theorem emit_acc (m : List Byte) (s : State) : (emit m s).acc = s.acc := rfl
@[simp] theorem emit_accLen (m : List Byte) (s : State) : (emit m s).accLen = s.accLen := rfl
@[simp] theorem emit_accOvf (m : List Byte) (s : State) : (emit m s).accOvf = s.accOvf := rfl
@[simp] theorem emit_ch (m : List Byte) (s : State) : (emit m s).ch = s.ch := rfl
@[simp] theorem emit_wireRx (m : List Byte) (s : State) : (emit m s).wireRx = s.wireRx := rfl
@[simp] theorem emit_wireTx (m : List Byte) (s : State) : (emit m s).wireTx = s.wireTx ++ [m] := rfl
@[simp] theorem emit_cmd (m : List Byte) (s : State) : (emit m s).cmd = s.cmd := rfl
@[simp] theorem emit_now (m : List Byte) (s : State) : (emit m s).now = s.now := rfl
@[simp] theorem emit_rsp (m : List Byte) (s : State) : (emit m s).rsp = s.rsp := rfl
@[simp] theorem emit_epoch (m : List Byte) (s : State) : (emit m s).epoch = s.epoch := rfl

/-! ### `accClear` -/

@[simp] theorem accClear_hdr (s : State) : (accClear s).hdr = s.hdr := rfl
@[simp] theorem accClear_pay (s : State) : (accClear s).pay = s.pay := rfl
@[simp] theorem accClear_free (s : State) : (accClear s).free = s.free := rfl
@[simp] theorem accClear_txState (s : State) : (accClear s).txState = s.txState := rfl
@[simp] theorem accClear_txq (s : State) : (accClear s).txq = s.txq := rfl
@[simp] theorem accClear_txT0 (s : State) : (accClear s).txT0 = s.txT0 := rfl
@[simp] theorem accClear_txRetries (s : State) : (accClear s).txRetries = s.txRetries := rfl
@[simp] theorem accClear_rxState (s : State) : (accClear s).rxState = s.rxState := rfl
@[simp] theorem accClear_acc (s : State) : (accClear s).acc = s.acc := rfl
@[simp] theorem accClear_accLen (s : State) : (accClear s).accLen = 0 := rfl
@[simp] theorem accClear_accOvf (s : State) : (accClear s).accOvf = false := rfl
@[simp] theorem accClear_ch (s : State) : (accClear s).ch = s.ch := rfl
@[simp] theorem accClear_wireRx (s : State) : (accClear s).wireRx = s.wireRx := rfl
@[simp] theorem accClear_wireTx (s : State) : (accClear s).wireTx = s.wireTx := rfl
@[simp] theorem accClear_cmd (s : State) : (accClear s).cmd = s.cmd := rfl
@[simp] theorem accClear_now (s : State) : (accClear s).now = s.now := rfl
@[simp] theorem accClear_rsp (s : State) : (accClear s).rsp = s.rsp := rfl
@[simp] theorem accClear_epoch (s : State) : (accClear s).epoch = s.epoch := rfl

/-! ### `accPush` -/

@[simp] theorem accPush_hdr (P : Params) (b : Byte) (s : State) : (accPush P b s).hdr = s.hdr := rfl
@[simp] theorem accPush_pay (P : Params) (b : Byte) (s : State) : (accPush P b s).pay = s.pay := rfl
@[simp] theorem accPush_free (P : Params) (b : Byte) (s : State) :
    (accPush P b s).free = s.free := rfl
@[simp] theorem accPush_txState (P : Params) (b : Byte) (s : State) :
    (accPush P b s).txState = s.txState := rfl
@[simp] theorem accPush_txq (P : Params) (b : Byte) (s : State) : (accPush P b s).txq = s.txq := rfl
@[simp] theorem accPush_txT0 (P : Params) (b : Byte) (s : State) :
    (accPush P b s).txT0 = s.txT0 := rfl
@[simp] theorem accPush_txRetries (P : Params) (b : Byte) (s : State) :
    (accPush P b s).txRetries = s.txRetries := rfl
@[simp] theorem accPush_rxState (P : Params) (b : Byte) (s : State) :
    (accPush P b s).rxState = s.rxState := rfl
@[simp] theorem accPush_acc (P : Params) (b : Byte) (s : State) :
    (accPush P b s).acc = Memory.write (accBlank P s) s.acc s.accLen b := rfl
@[simp] theorem accPush_accLen (P : Params) (b : Byte) (s : State) :
    (accPush P b s).accLen = s.accLen + 1 := rfl
@[simp] theorem accPush_accOvf (P : Params) (b : Byte) (s : State) :
    (accPush P b s).accOvf = s.accOvf := rfl
@[simp] theorem accPush_ch (P : Params) (b : Byte) (s : State) : (accPush P b s).ch = s.ch := rfl
@[simp] theorem accPush_wireRx (P : Params) (b : Byte) (s : State) :
    (accPush P b s).wireRx = s.wireRx := rfl
@[simp] theorem accPush_wireTx (P : Params) (b : Byte) (s : State) :
    (accPush P b s).wireTx = s.wireTx := rfl
@[simp] theorem accPush_cmd (P : Params) (b : Byte) (s : State) : (accPush P b s).cmd = s.cmd := rfl
@[simp] theorem accPush_now (P : Params) (b : Byte) (s : State) : (accPush P b s).now = s.now := rfl
@[simp] theorem accPush_rsp (P : Params) (b : Byte) (s : State) : (accPush P b s).rsp = s.rsp := rfl
@[simp] theorem accPush_epoch (P : Params) (b : Byte) (s : State) :
    (accPush P b s).epoch = s.epoch := rfl

/-! ### `memWrite` -/

@[simp] theorem memWrite_hdr (P : Params) (i o : Nat) (v : Byte) (s : State) :
    (memWrite P i o v s).hdr = s.hdr := rfl
@[simp] theorem memWrite_pay (P : Params) (i o : Nat) (v : Byte) (s : State) :
    (memWrite P i o v s).pay = Memory.write (payBlank P s) s.pay (slotAddr i o) v := rfl
@[simp] theorem memWrite_free (P : Params) (i o : Nat) (v : Byte) (s : State) :
    (memWrite P i o v s).free = s.free := rfl
@[simp] theorem memWrite_txState (P : Params) (i o : Nat) (v : Byte) (s : State) :
    (memWrite P i o v s).txState = s.txState := rfl
@[simp] theorem memWrite_txq (P : Params) (i o : Nat) (v : Byte) (s : State) :
    (memWrite P i o v s).txq = s.txq := rfl
@[simp] theorem memWrite_txT0 (P : Params) (i o : Nat) (v : Byte) (s : State) :
    (memWrite P i o v s).txT0 = s.txT0 := rfl
@[simp] theorem memWrite_txRetries (P : Params) (i o : Nat) (v : Byte) (s : State) :
    (memWrite P i o v s).txRetries = s.txRetries := rfl
@[simp] theorem memWrite_rxState (P : Params) (i o : Nat) (v : Byte) (s : State) :
    (memWrite P i o v s).rxState = s.rxState := rfl
@[simp] theorem memWrite_acc (P : Params) (i o : Nat) (v : Byte) (s : State) :
    (memWrite P i o v s).acc = s.acc := rfl
@[simp] theorem memWrite_accLen (P : Params) (i o : Nat) (v : Byte) (s : State) :
    (memWrite P i o v s).accLen = s.accLen := rfl
@[simp] theorem memWrite_accOvf (P : Params) (i o : Nat) (v : Byte) (s : State) :
    (memWrite P i o v s).accOvf = s.accOvf := rfl
@[simp] theorem memWrite_ch (P : Params) (i o : Nat) (v : Byte) (s : State) :
    (memWrite P i o v s).ch = s.ch := rfl
@[simp] theorem memWrite_wireRx (P : Params) (i o : Nat) (v : Byte) (s : State) :
    (memWrite P i o v s).wireRx = s.wireRx := rfl
@[simp] theorem memWrite_wireTx (P : Params) (i o : Nat) (v : Byte) (s : State) :
    (memWrite P i o v s).wireTx = s.wireTx := rfl
@[simp] theorem memWrite_cmd (P : Params) (i o : Nat) (v : Byte) (s : State) :
    (memWrite P i o v s).cmd = s.cmd := rfl
@[simp] theorem memWrite_now (P : Params) (i o : Nat) (v : Byte) (s : State) :
    (memWrite P i o v s).now = s.now := rfl
@[simp] theorem memWrite_rsp (P : Params) (i o : Nat) (v : Byte) (s : State) :
    (memWrite P i o v s).rsp = s.rsp := rfl
@[simp] theorem memWrite_epoch (P : Params) (i o : Nat) (v : Byte) (s : State) :
    (memWrite P i o v s).epoch = s.epoch := rfl

/-! ### `linkReset` -/

@[simp] theorem linkReset_hdr (P : Params) (cause : ResetCause) (s : State) :
    (linkReset P cause s).hdr = s.hdr := rfl
@[simp] theorem linkReset_pay (P : Params) (cause : ResetCause) (s : State) :
    (linkReset P cause s).pay = s.pay := rfl
@[simp] theorem linkReset_free (P : Params) (cause : ResetCause) (s : State) :
    (linkReset P cause s).free = List.range P.nbuf := rfl
@[simp] theorem linkReset_txState (P : Params) (cause : ResetCause) (s : State) :
    (linkReset P cause s).txState = .rdy false := rfl
@[simp] theorem linkReset_txq (P : Params) (cause : ResetCause) (s : State) :
    (linkReset P cause s).txq = [] := rfl
@[simp] theorem linkReset_txT0 (P : Params) (cause : ResetCause) (s : State) :
    (linkReset P cause s).txT0 = s.txT0 := rfl
@[simp] theorem linkReset_txRetries (P : Params) (cause : ResetCause) (s : State) :
    (linkReset P cause s).txRetries = 0 := rfl
@[simp] theorem linkReset_rxState (P : Params) (cause : ResetCause) (s : State) :
    (linkReset P cause s).rxState = .await false := rfl
@[simp] theorem linkReset_acc (P : Params) (cause : ResetCause) (s : State) :
    (linkReset P cause s).acc = s.acc := rfl
@[simp] theorem linkReset_accLen (P : Params) (cause : ResetCause) (s : State) :
    (linkReset P cause s).accLen = 0 := rfl
@[simp] theorem linkReset_accOvf (P : Params) (cause : ResetCause) (s : State) :
    (linkReset P cause s).accOvf = false := rfl
@[simp] theorem linkReset_ch (P : Params) (cause : ResetCause) (s : State) :
    (linkReset P cause s).ch = s.ch.map linkResetChannel := rfl
@[simp] theorem linkReset_wireRx (P : Params) (cause : ResetCause) (s : State) :
    (linkReset P cause s).wireRx = s.wireRx := rfl
@[simp] theorem linkReset_wireTx (P : Params) (cause : ResetCause) (s : State) :
    (linkReset P cause s).wireTx = s.wireTx := rfl
@[simp] theorem linkReset_cmd (P : Params) (cause : ResetCause) (s : State) :
    (linkReset P cause s).cmd = s.cmd := rfl
@[simp] theorem linkReset_now (P : Params) (cause : ResetCause) (s : State) :
    (linkReset P cause s).now = s.now := rfl
@[simp] theorem linkReset_rsp (P : Params) (cause : ResetCause) (s : State) :
    (linkReset P cause s).rsp = s.rsp := rfl
@[simp] theorem linkReset_epoch (P : Params) (cause : ResetCause) (s : State) :
    (linkReset P cause s).epoch = s.epoch := rfl

/-! ### `sendAck` -/

@[simp] theorem sendAck_hdr (P : Params) (n : Bool) (s : State) : (sendAck P n s).hdr = s.hdr := rfl
@[simp] theorem sendAck_pay (P : Params) (n : Bool) (s : State) : (sendAck P n s).pay = s.pay := rfl
@[simp] theorem sendAck_free (P : Params) (n : Bool) (s : State) :
    (sendAck P n s).free = s.free := rfl
@[simp] theorem sendAck_txState (P : Params) (n : Bool) (s : State) :
    (sendAck P n s).txState = s.txState := rfl
@[simp] theorem sendAck_txq (P : Params) (n : Bool) (s : State) : (sendAck P n s).txq = s.txq := rfl
@[simp] theorem sendAck_txT0 (P : Params) (n : Bool) (s : State) :
    (sendAck P n s).txT0 = s.txT0 := rfl
@[simp] theorem sendAck_txRetries (P : Params) (n : Bool) (s : State) :
    (sendAck P n s).txRetries = s.txRetries := rfl
@[simp] theorem sendAck_rxState (P : Params) (n : Bool) (s : State) :
    (sendAck P n s).rxState = s.rxState := rfl
@[simp] theorem sendAck_acc (P : Params) (n : Bool) (s : State) : (sendAck P n s).acc = s.acc := rfl
@[simp] theorem sendAck_accLen (P : Params) (n : Bool) (s : State) :
    (sendAck P n s).accLen = s.accLen := rfl
@[simp] theorem sendAck_accOvf (P : Params) (n : Bool) (s : State) :
    (sendAck P n s).accOvf = s.accOvf := rfl
@[simp] theorem sendAck_ch (P : Params) (n : Bool) (s : State) : (sendAck P n s).ch = s.ch := rfl
@[simp] theorem sendAck_wireRx (P : Params) (n : Bool) (s : State) :
    (sendAck P n s).wireRx = s.wireRx := rfl
@[simp] theorem sendAck_wireTx (P : Params) (n : Bool) (s : State) :
    (sendAck P n s).wireTx = s.wireTx ++ [ackMessage P n] := rfl
@[simp] theorem sendAck_cmd (P : Params) (n : Bool) (s : State) : (sendAck P n s).cmd = s.cmd := rfl
@[simp] theorem sendAck_now (P : Params) (n : Bool) (s : State) : (sendAck P n s).now = s.now := rfl
@[simp] theorem sendAck_rsp (P : Params) (n : Bool) (s : State) : (sendAck P n s).rsp = s.rsp := rfl
@[simp] theorem sendAck_epoch (P : Params) (n : Bool) (s : State) :
    (sendAck P n s).epoch = s.epoch := rfl

/-! ### `sendReset` -/

@[simp] theorem sendReset_hdr (P : Params) (chan : Byte) (s : State) :
    (sendReset P chan s).hdr = s.hdr := rfl
@[simp] theorem sendReset_pay (P : Params) (chan : Byte) (s : State) :
    (sendReset P chan s).pay = s.pay := rfl
@[simp] theorem sendReset_free (P : Params) (chan : Byte) (s : State) :
    (sendReset P chan s).free = s.free := rfl
@[simp] theorem sendReset_txState (P : Params) (chan : Byte) (s : State) :
    (sendReset P chan s).txState = s.txState := rfl
@[simp] theorem sendReset_txq (P : Params) (chan : Byte) (s : State) :
    (sendReset P chan s).txq = s.txq := rfl
@[simp] theorem sendReset_txT0 (P : Params) (chan : Byte) (s : State) :
    (sendReset P chan s).txT0 = s.txT0 := rfl
@[simp] theorem sendReset_txRetries (P : Params) (chan : Byte) (s : State) :
    (sendReset P chan s).txRetries = s.txRetries := rfl
@[simp] theorem sendReset_rxState (P : Params) (chan : Byte) (s : State) :
    (sendReset P chan s).rxState = s.rxState := rfl
@[simp] theorem sendReset_acc (P : Params) (chan : Byte) (s : State) :
    (sendReset P chan s).acc = s.acc := rfl
@[simp] theorem sendReset_accLen (P : Params) (chan : Byte) (s : State) :
    (sendReset P chan s).accLen = s.accLen := rfl
@[simp] theorem sendReset_accOvf (P : Params) (chan : Byte) (s : State) :
    (sendReset P chan s).accOvf = s.accOvf := rfl
@[simp] theorem sendReset_ch (P : Params) (chan : Byte) (s : State) :
    (sendReset P chan s).ch = s.ch := rfl
@[simp] theorem sendReset_wireRx (P : Params) (chan : Byte) (s : State) :
    (sendReset P chan s).wireRx = s.wireRx := rfl
@[simp] theorem sendReset_wireTx (P : Params) (chan : Byte) (s : State) :
    (sendReset P chan s).wireTx = s.wireTx ++ [resetMessage P chan] := rfl
@[simp] theorem sendReset_cmd (P : Params) (chan : Byte) (s : State) :
    (sendReset P chan s).cmd = s.cmd := rfl
@[simp] theorem sendReset_now (P : Params) (chan : Byte) (s : State) :
    (sendReset P chan s).now = s.now := rfl
@[simp] theorem sendReset_rsp (P : Params) (chan : Byte) (s : State) :
    (sendReset P chan s).rsp = s.rsp := rfl
@[simp] theorem sendReset_epoch (P : Params) (chan : Byte) (s : State) :
    (sendReset P chan s).epoch = s.epoch := rfl

/-! ### `emitFrame` -/

@[simp] theorem emitFrame_hdr (P : Params) (i : Nat) (s : State) :
    (emitFrame P i s).hdr = s.hdr := rfl
@[simp] theorem emitFrame_pay (P : Params) (i : Nat) (s : State) :
    (emitFrame P i s).pay = s.pay := rfl
@[simp] theorem emitFrame_free (P : Params) (i : Nat) (s : State) :
    (emitFrame P i s).free = s.free := rfl
@[simp] theorem emitFrame_txState (P : Params) (i : Nat) (s : State) :
    (emitFrame P i s).txState = s.txState := rfl
@[simp] theorem emitFrame_txq (P : Params) (i : Nat) (s : State) :
    (emitFrame P i s).txq = s.txq := rfl
@[simp] theorem emitFrame_txT0 (P : Params) (i : Nat) (s : State) :
    (emitFrame P i s).txT0 = s.txT0 := rfl
@[simp] theorem emitFrame_txRetries (P : Params) (i : Nat) (s : State) :
    (emitFrame P i s).txRetries = s.txRetries := rfl
@[simp] theorem emitFrame_rxState (P : Params) (i : Nat) (s : State) :
    (emitFrame P i s).rxState = s.rxState := rfl
@[simp] theorem emitFrame_acc (P : Params) (i : Nat) (s : State) :
    (emitFrame P i s).acc = s.acc := rfl
@[simp] theorem emitFrame_accLen (P : Params) (i : Nat) (s : State) :
    (emitFrame P i s).accLen = s.accLen := rfl
@[simp] theorem emitFrame_accOvf (P : Params) (i : Nat) (s : State) :
    (emitFrame P i s).accOvf = s.accOvf := rfl
@[simp] theorem emitFrame_ch (P : Params) (i : Nat) (s : State) : (emitFrame P i s).ch = s.ch := rfl
@[simp] theorem emitFrame_wireRx (P : Params) (i : Nat) (s : State) :
    (emitFrame P i s).wireRx = s.wireRx := rfl
@[simp] theorem emitFrame_wireTx (P : Params) (i : Nat) (s : State) :
    (emitFrame P i s).wireTx = s.wireTx ++ [slotMessage P i s] := rfl
@[simp] theorem emitFrame_cmd (P : Params) (i : Nat) (s : State) :
    (emitFrame P i s).cmd = s.cmd := rfl
@[simp] theorem emitFrame_now (P : Params) (i : Nat) (s : State) :
    (emitFrame P i s).now = s.now := rfl
@[simp] theorem emitFrame_rsp (P : Params) (i : Nat) (s : State) :
    (emitFrame P i s).rsp = s.rsp := rfl
@[simp] theorem emitFrame_epoch (P : Params) (i : Nat) (s : State) :
    (emitFrame P i s).epoch = s.epoch := rfl

/-! ### Reads through the accessors -/

@[simp] theorem chanOf_setSlot (j : Nat) (i : Nat) (h : SlotHeader) (s : State) :
    chanOf j (setSlot i h s) = chanOf j s := rfl
@[simp] theorem memRead_setSlot (P : Params) (i o : Nat) (i' : Nat) (h : SlotHeader) (s : State) :
    memRead P i o (setSlot i' h s) = memRead P i o s := rfl
@[simp] theorem slotOf_setChan (j : Nat) (c : Nat) (k : Channel) (s : State) :
    slotOf j (setChan c k s) = slotOf j s := rfl
@[simp] theorem memRead_setChan (P : Params) (i o : Nat) (c : Nat) (k : Channel) (s : State) :
    memRead P i o (setChan c k s) = memRead P i o s := rfl
@[simp] theorem slotOf_respond (j : Nat) (st : Status) (d : BitVec 16) (s : State) :
    slotOf j (respond st d s) = slotOf j s := rfl
@[simp] theorem chanOf_respond (j : Nat) (st : Status) (d : BitVec 16) (s : State) :
    chanOf j (respond st d s) = chanOf j s := rfl
@[simp] theorem memRead_respond (P : Params) (i o : Nat) (st : Status) (d : BitVec 16) (s : State) :
    memRead P i o (respond st d s) = memRead P i o s := rfl
@[simp] theorem slotOf_poolRelease (j : Nat) (i : Nat) (s : State) :
    slotOf j (poolRelease i s) = slotOf j s := rfl
@[simp] theorem chanOf_poolRelease (j : Nat) (i : Nat) (s : State) :
    chanOf j (poolRelease i s) = chanOf j s := rfl
@[simp] theorem memRead_poolRelease (P : Params) (i o : Nat) (i' : Nat) (s : State) :
    memRead P i o (poolRelease i' s) = memRead P i o s := rfl
@[simp] theorem slotOf_emit (j : Nat) (m : List Byte) (s : State) :
    slotOf j (emit m s) = slotOf j s := rfl
@[simp] theorem chanOf_emit (j : Nat) (m : List Byte) (s : State) :
    chanOf j (emit m s) = chanOf j s := rfl
@[simp] theorem memRead_emit (P : Params) (i o : Nat) (m : List Byte) (s : State) :
    memRead P i o (emit m s) = memRead P i o s := rfl
@[simp] theorem slotOf_accClear (j : Nat) (s : State) :
    slotOf j (accClear s) = slotOf j s := rfl
@[simp] theorem chanOf_accClear (j : Nat) (s : State) :
    chanOf j (accClear s) = chanOf j s := rfl
@[simp] theorem memRead_accClear (P : Params) (i o : Nat) (s : State) :
    memRead P i o (accClear s) = memRead P i o s := rfl
@[simp] theorem slotOf_accPush (j : Nat) (P : Params) (b : Byte) (s : State) :
    slotOf j (accPush P b s) = slotOf j s := rfl
@[simp] theorem chanOf_accPush (j : Nat) (P : Params) (b : Byte) (s : State) :
    chanOf j (accPush P b s) = chanOf j s := rfl
@[simp] theorem memRead_accPush (i o : Nat) (P : Params) (b : Byte) (s : State) :
    memRead P i o (accPush P b s) = memRead P i o s := rfl
@[simp] theorem slotOf_memWrite (j : Nat) (P : Params) (i o : Nat) (v : Byte) (s : State) :
    slotOf j (memWrite P i o v s) = slotOf j s := rfl
@[simp] theorem chanOf_memWrite (j : Nat) (P : Params) (i o : Nat) (v : Byte) (s : State) :
    chanOf j (memWrite P i o v s) = chanOf j s := rfl
@[simp] theorem slotOf_linkReset (j : Nat) (P : Params) (cause : ResetCause) (s : State) :
    slotOf j (linkReset P cause s) = slotOf j s := rfl
@[simp] theorem memRead_linkReset (i o : Nat) (P : Params) (cause : ResetCause) (s : State) :
    memRead P i o (linkReset P cause s) = memRead P i o s := rfl
@[simp] theorem slotOf_sendAck (j : Nat) (P : Params) (n : Bool) (s : State) :
    slotOf j (sendAck P n s) = slotOf j s := rfl
@[simp] theorem chanOf_sendAck (j : Nat) (P : Params) (n : Bool) (s : State) :
    chanOf j (sendAck P n s) = chanOf j s := rfl
@[simp] theorem memRead_sendAck (i o : Nat) (P : Params) (n : Bool) (s : State) :
    memRead P i o (sendAck P n s) = memRead P i o s := rfl
@[simp] theorem slotOf_sendReset (j : Nat) (P : Params) (chan : Byte) (s : State) :
    slotOf j (sendReset P chan s) = slotOf j s := rfl
@[simp] theorem chanOf_sendReset (j : Nat) (P : Params) (chan : Byte) (s : State) :
    chanOf j (sendReset P chan s) = chanOf j s := rfl
@[simp] theorem memRead_sendReset (i o : Nat) (P : Params) (chan : Byte) (s : State) :
    memRead P i o (sendReset P chan s) = memRead P i o s := rfl
@[simp] theorem slotOf_emitFrame (j : Nat) (P : Params) (i : Nat) (s : State) :
    slotOf j (emitFrame P i s) = slotOf j s := rfl
@[simp] theorem chanOf_emitFrame (j : Nat) (P : Params) (i : Nat) (s : State) :
    chanOf j (emitFrame P i s) = chanOf j s := rfl
@[simp] theorem memRead_emitFrame (i o : Nat) (P : Params) (i' : Nat) (s : State) :
    memRead P i o (emitFrame P i' s) = memRead P i o s := rfl

end Sys2Proof.Machine
end

