-- ==== Sys2Proof/Laws/Decode.lean ====
section
/-!
SUPPORT. The laws of the encodings: a command word's fields, the tag bytes, and the raw frame.
-/

namespace Sys2Proof

/-! ### The command word -/

/-- The bits of a command word (rule R91). -/
theorem getLsbD_commandWord (op ch : Byte) (arg : BitVec 16) (j : Nat) :
    (commandWord op ch arg).getLsbD j =
      if j < 16 then arg.getLsbD j else if j - 16 < 8 then ch.getLsbD (j - 16)
      else op.getLsbD (j - 16 - 8) := by
  simp only [commandWord, BitVec.getLsbD_append]

@[simp] theorem opField_commandWord (op ch : Byte) (arg : BitVec 16) :
    opField (commandWord op ch arg) = op := by
  apply BitVec.eq_of_getLsbD_eq
  intro i hi
  simp only [opField, BitVec.getLsbD_extractLsb', getLsbD_commandWord]
  rw [if_neg (by omega), if_neg (by omega), show 24 + i - 16 - 8 = i by omega]
  simp [hi]

@[simp] theorem chField_commandWord (op ch : Byte) (arg : BitVec 16) :
    chField (commandWord op ch arg) = ch := by
  apply BitVec.eq_of_getLsbD_eq
  intro i hi
  simp only [chField, BitVec.getLsbD_extractLsb', getLsbD_commandWord]
  rw [if_neg (by omega), if_pos (by omega), show 16 + i - 16 = i by omega]
  simp [hi]

@[simp] theorem argField_commandWord (op ch : Byte) (arg : BitVec 16) :
    argField (commandWord op ch arg) = arg := by
  apply BitVec.eq_of_getLsbD_eq
  intro i hi
  simp only [argField, BitVec.getLsbD_extractLsb', getLsbD_commandWord]
  rw [if_pos (by omega), show 0 + i = i by omega]
  simp [hi]

/-- A word is its three fields (rule R91). -/
theorem commandWord_fields (w : Word32) : commandWord (opField w) (chField w) (argField w) = w := by
  apply BitVec.eq_of_getLsbD_eq
  intro i hi
  simp only [commandWord, opField, chField, argField, BitVec.getLsbD_append, BitVec.getLsbD_extractLsb']
  split
  · simp [*]
  · split
    · simp only [show i - 16 < 8 by omega, decide_true, Bool.true_and]
      congr 1
      omega
    · simp only [show i - 16 - 8 < 8 by omega, decide_true, Bool.true_and]
      congr 1
      omega

/-! ### The tag bytes -/

@[simp] theorem CType.ofByte_byte (t : CType) : CType.ofByte t.byte = t := by
  cases t <;> decide

@[simp] theorem AType.ofByte_byte (t : AType) : AType.ofByte t.byte = t := by
  cases t with
  | data n => cases n <;> decide
  | ack n => cases n <;> decide

@[simp] theorem reservedClear_ctype (t : CType) : reservedClear t.byte = true := by
  cases t <;> decide

@[simp] theorem reservedClear_atype (t : AType) : reservedClear t.byte = true := by
  cases t with
  | data n => cases n <;> decide
  | ack n => cases n <;> decide

/-- A tag byte with its reserved bits clear is the byte of the tag it names (rules R98, R100). -/
theorem CType.byte_ofByte {b : Byte} (h : reservedClear b = true) : (CType.ofByte b).byte = b := by
  have hb : b.toNat < 4 := by simpa [reservedClear] using h
  have : b = 0 ∨ b = 1 ∨ b = 2 ∨ b = 3 := by bv_omega
  rcases this with rfl | rfl | rfl | rfl <;> decide

/-- A tag byte with its reserved bits clear is the byte of the tag it names (rules R98, R101). -/
theorem AType.byte_ofByte {b : Byte} (h : reservedClear b = true) : (AType.ofByte b).byte = b := by
  have hb : b.toNat < 4 := by simpa [reservedClear] using h
  have : b = 0 ∨ b = 1 ∨ b = 2 ∨ b = 3 := by bv_omega
  rcases this with rfl | rfl | rfl | rfl <;> decide

/-- A reserved bit of a tag byte is clear exactly when the byte is below 4. -/
theorem reservedClear_iff (b : Byte) :
    reservedClear b = true ↔ ∀ k, 2 ≤ k → b.getLsbD k = false := by
  constructor
  · intro h k hk
    have hb : b.toNat < 4 := by simpa [reservedClear] using h
    have : b = 0 ∨ b = 1 ∨ b = 2 ∨ b = 3 := by bv_omega
    have h4 : b.toNat < 2 ^ k := Nat.lt_of_lt_of_le hb (Nat.pow_le_pow_right (show 2 > 0 by decide) hk)
    simp [BitVec.getLsbD, Nat.testBit_lt_two_pow h4]
  · intro h
    have : b.toNat < 2 ^ 2 := by
      apply Nat.lt_pow_two_of_testBit
      intro k hk
      exact h k hk
    simpa [reservedClear] using this

/-! ### The raw frame -/

/-- The checksum's two bytes are the checksum (rules R64, R102). -/
theorem checksum_bytes (c : BitVec 16) : (c.extractLsb' 8 8 ++ c.extractLsb' 0 8 : BitVec 16) = c := by
  apply BitVec.eq_of_getLsbD_eq
  intro i hi
  simp only [BitVec.getLsbD_append, BitVec.getLsbD_extractLsb']
  split
  · simp [*]
  · simp only [show i - 8 < 8 by omega, decide_true, Bool.true_and]
    congr 1
    omega

/-- A built raw frame passes the length and checksum checks, and gives the frame back (rules R98,
R102, R162). -/
theorem checkRaw_rawFrame (P : Params) (f : RawFrame) (h : f.pay.length ≤ P.maxpay) :
    checkRaw P (rawFrame P f) = .ok f := by
  simp [checkRaw, rawFrame, RawFrame.covered, h, checksum_bytes]

/-- Bytes that pass the checks are the raw frame of what they give. -/
theorem rawFrame_of_checkRaw {P : Params} {r : List Byte} {f : RawFrame}
    (h : checkRaw P r = .ok f) : rawFrame P f = r ∧ f.pay.length ≤ P.maxpay := by
  unfold checkRaw at h
  split at h
  · rename_i chan ctype atype rest
    split at h
    · rename_i lo hi revPay hrev
      simp only at h
      split at h
      · rename_i hlen
        split at h
        · rename_i hcrc
          cases h
          refine ⟨?_, hlen⟩
          have hrest : rest = revPay.reverse ++ [hi, lo] := by
            have := congrArg List.reverse hrev
            simpa using this
          simp only [rawFrame, RawFrame.covered] at hcrc ⊢
          rw [hcrc, hrest]
          have h1 : (hi ++ lo : BitVec 16).extractLsb' 8 8 = hi := by
            apply BitVec.eq_of_getLsbD_eq
            intro i hi'
            simp only [BitVec.getLsbD_extractLsb', BitVec.getLsbD_append]
            rw [if_neg (by omega), show 8 + i - 8 = i by omega]
            simp [hi']
          have h2 : (hi ++ lo : BitVec 16).extractLsb' 0 8 = lo := by
            apply BitVec.eq_of_getLsbD_eq
            intro i hi'
            simp only [BitVec.getLsbD_extractLsb', BitVec.getLsbD_append]
            rw [if_pos (by omega), show 0 + i = i by omega]
            simp [hi']
          rw [h1, h2]
          simp
        · cases h
      · cases h
    · cases h
  · cases h

/-- A raw frame is five bytes longer than its payload (rules R98, R110). -/
theorem length_rawFrame (P : Params) (f : RawFrame) :
    (rawFrame P f).length = f.pay.length + 5 := by
  simp [rawFrame, RawFrame.covered]

/-- The encoded text of a frame fits the accumulator (rule R35). -/
theorem encode_fits (P : Params) (f : RawFrame) (h : f.pay.length ≤ P.maxpay) :
    (P.encode (rawFrame P f)).length ≤ P.accCap := by
  rw [P.length_encode, length_rawFrame, Params.accCap]
  omega

/-- An encoded text holds neither delimiter (rules R6, R108). -/
theorem encode_no_delimiter (P : Params) (r : List Byte) :
    ∀ b ∈ P.encode r, b ≠ P.som ∧ b ≠ P.eom := by
  intro b hb
  have ha := P.alphabet_encode r b hb
  refine ⟨?_, ?_⟩
  · rintro rfl
    rw [P.som_alphabet] at ha
    cases ha
  · rintro rfl
    rw [P.eom_alphabet] at ha
    cases ha

end Sys2Proof
end

