-- ==== Sys2Proof/Laws/Memory.lean ====
section
/-!
SUPPORT. The laws of the byte memories: a read after a write, the canonical form that every write keeps,
and the whole-payload moves.
-/

namespace Sys2Proof.Machine

/-! ### One byte -/

theorem Memory.read_insert (blank : Nat → Byte) (m : Memory) (a b : Nat) (v : Byte) :
    Memory.read blank (Memory.insert m a v) b = if b = a then v else Memory.read blank m b := by
  induction m with
  | nil => simp [Memory.insert, Memory.read]
  | cons c m ih =>
    simp only [Memory.insert]
    split
    · simp [Memory.read]
    · split
      · rename_i h
        simp only [Memory.read, h]
        split <;> rfl
      · rename_i h
        simp only [Memory.read, ih]
        split
        · rename_i hb
          rw [if_neg]
          rintro rfl
          exact h hb
        · rfl

theorem Memory.read_erase (blank : Nat → Byte) (m : Memory) (a b : Nat) :
    Memory.read blank (m.filter (fun c => decide (c.1 ≠ a))) b =
      if b = a then blank a else Memory.read blank m b := by
  induction m with
  | nil =>
    simp only [List.filter_nil, Memory.read]
    split
    · rename_i h
      rw [h]
    · rfl
  | cons c m ih =>
    by_cases hc : c.1 = a
    · simp only [List.filter_cons, hc, ne_eq, not_true_eq_false, decide_false, Bool.false_eq_true,
        if_false, ih, Memory.read]
      split <;> rfl
    · simp only [List.filter_cons, ne_eq, hc, not_false_eq_true, decide_true, if_true, Memory.read, ih]
      split
      · rename_i h
        rw [if_neg (by rw [h]; exact hc)]
      · rfl

/-- A read after a write: the written byte at the written address, the old byte elsewhere. -/
theorem Memory.read_write (blank : Nat → Byte) (m : Memory) (a b : Nat) (v : Byte) :
    Memory.read blank (Memory.write blank m a v) b = if b = a then v else Memory.read blank m b := by
  unfold Memory.write
  split
  · rename_i h
    rw [Memory.read_erase, h]
  · exact Memory.read_insert blank m a b v

/-! ### The canonical form -/

theorem Memory.mem_insert {m : Memory} {a : Nat} {v : Byte} {c : Host.Cell}
    (h : c ∈ Memory.insert m a v) : c = (a, v) ∨ c ∈ m := by
  induction m with
  | nil => simpa [Memory.insert] using h
  | cons d m ih =>
    simp only [Memory.insert] at h
    split at h
    · simpa using h
    · split at h
      · rcases List.mem_cons.mp h with h | h
        · exact .inl h
        · exact .inr (List.mem_cons_of_mem _ h)
      · rcases List.mem_cons.mp h with h | h
        · exact .inr (h ▸ List.mem_cons_self)
        · exact (ih h).imp_right (List.mem_cons_of_mem _)

theorem Memory.sorted_insert {m : Memory} (a : Nat) (v : Byte)
    (h : (m.map Prod.fst).Pairwise (· < ·)) :
    ((Memory.insert m a v).map Prod.fst).Pairwise (· < ·) := by
  induction m with
  | nil => simp [Memory.insert]
  | cons d m ih =>
    simp only [List.map_cons, List.pairwise_cons] at h
    simp only [Memory.insert]
    split
    · rename_i hlt
      simp only [List.map_cons, List.pairwise_cons, List.mem_cons]
      refine ⟨?_, h.1, h.2⟩
      rintro b (rfl | hb)
      · exact hlt
      · exact Nat.lt_trans hlt (h.1 b hb)
    · split
      · rename_i heq
        simp only [List.map_cons, List.pairwise_cons, heq]
        exact ⟨h.1, h.2⟩
      · rename_i h1 h2
        simp only [List.map_cons, List.pairwise_cons]
        refine ⟨?_, ih h.2⟩
        intro b hb
        obtain ⟨c, hc, rfl⟩ := List.mem_map.mp hb
        rcases Memory.mem_insert hc with rfl | hc
        · exact Nat.lt_of_le_of_ne (Nat.le_of_not_lt h1) (Ne.symm h2)
        · exact h.1 _ (List.mem_map_of_mem hc)

theorem Memory.wf_iff (blank : Nat → Byte) (m : Memory) :
    Memory.wf blank m = true ↔
      (m.map Prod.fst).Pairwise (· < ·) ∧ ∀ c ∈ m, c.2 ≠ blank c.1 := by
  simp [Memory.wf]

/-- Every write keeps the canonical form. -/
theorem Memory.wf_write {blank : Nat → Byte} {m : Memory} (a : Nat) (v : Byte)
    (h : Memory.wf blank m = true) : Memory.wf blank (Memory.write blank m a v) = true := by
  rw [Memory.wf_iff] at h ⊢
  unfold Memory.write
  split
  · refine ⟨?_, fun c hc => h.2 c (List.mem_filter.mp hc).1⟩
    exact h.1.sublist (List.filter_sublist.map Prod.fst)
  · rename_i hv
    refine ⟨Memory.sorted_insert a v h.1, fun c hc => ?_⟩
    rcases Memory.mem_insert hc with rfl | hc
    · exact hv
    · exact h.2 c hc

/-- The memories of the state after reset are canonical: nothing is listed. -/
theorem storageWf_powerOn (P : Params) : StorageWf P (State.powerOn P) :=
  ⟨rfl, rfl, Nat.zero_le _⟩

/-! ### Slot payloads -/

theorem slotAddr_inj {i j o p : Nat} (ho : o < 256) (hp : p < 256)
    (h : slotAddr i o = slotAddr j p) : i = j ∧ o = p := by
  unfold slotAddr at h
  omega

/-- `MemWrite` changes the one byte it names (rule R62). -/
theorem memRead_memWrite (P : Params) (i o j p : Nat) (v : Byte) (s : State) :
    memRead P j p (memWrite P i o v s) =
      if slotAddr j p = slotAddr i o then v else memRead P j p s :=
  Memory.read_write _ _ _ _ _

theorem memWrite_wf (P : Params) (i o : Nat) (v : Byte) (s : State)
    (h : Memory.wf (payBlank P s) s.pay = true) :
    Memory.wf (payBlank P (memWrite P i o v s)) (memWrite P i o v s).pay = true :=
  Memory.wf_write _ _ h

/-- The whole-payload store writes no field but the payload memory. -/
theorem storeBytes_eq (P : Params) (i : Nat) (bs : List Byte) :
    ∀ (o : Nat) (s : State), storeBytes P i o bs s = { s with pay := (storeBytes P i o bs s).pay } := by
  induction bs with
  | nil => intro o s; rfl
  | cons b bs ih =>
    intro o s
    simp only [storeBytes]
    rw [ih]
    rfl

theorem storeBytes_wf (P : Params) (i : Nat) (bs : List Byte) :
    ∀ (o : Nat) (s : State), Memory.wf (payBlank P s) s.pay = true →
      Memory.wf (payBlank P (storeBytes P i o bs s)) (storeBytes P i o bs s).pay = true := by
  induction bs with
  | nil => intro o s h; exact h
  | cons b bs ih => intro o s h; exact ih _ _ (memWrite_wf P i o b s h)

/-- What a byte reads as after a whole-payload store: the stored byte inside the stored range, the old
byte elsewhere. -/
theorem memRead_storeBytes (P : Params) (i j p : Nat) (hp : p < 256) (bs : List Byte) :
    ∀ (o : Nat) (s : State), o + bs.length ≤ 256 →
      memRead P j p (storeBytes P i o bs s) =
        if j = i ∧ o ≤ p ∧ p < o + bs.length then bs.getD (p - o) 0 else memRead P j p s := by
  induction bs with
  | nil =>
    intro o s _
    rw [if_neg]
    · rfl
    · simp only [List.length_nil]
      omega
  | cons b bs ih =>
    intro o s h
    simp only [List.length_cons] at h
    simp only [storeBytes, ih (o + 1) (memWrite P i o b s) (by omega), List.length_cons,
      memRead_memWrite]
    by_cases hin : j = i ∧ o + 1 ≤ p ∧ p < o + 1 + bs.length
    · rw [if_pos hin, if_pos ⟨hin.1, by omega, by omega⟩]
      rw [show p - o = (p - (o + 1)) + 1 by omega, List.getD_cons_succ]
    · rw [if_neg hin]
      by_cases ha : slotAddr j p = slotAddr i o
      · obtain ⟨rfl, rfl⟩ := slotAddr_inj hp (by omega) ha
        rw [if_pos ha, if_pos ⟨rfl, by omega, by omega⟩]
        simp
      · rw [if_neg ha, if_neg]
        rintro ⟨rfl, h1, h2⟩
        have : o ≠ p := fun he => ha (by rw [he])
        exact hin ⟨rfl, by omega, by omega⟩

/-- A stored payload reads back (rules R61, R161). -/
theorem payload_storeBytes (P : Params) (i : Nat) (bs : List Byte) (s : State)
    (h : bs.length ≤ 256) : payload P i bs.length (storeBytes P i 0 bs s) = bs := by
  apply List.ext_getElem
  · simp [payload]
  · intro n h1 h2
    simp only [payload, List.getElem_map, List.getElem_range]
    rw [memRead_storeBytes P i i n (by omega) bs 0 s (by omega), if_pos ⟨rfl, by omega, by omega⟩]
    simp [h2]

/-! ### The accumulator -/

/-- One more byte is accumulated, after those before it (rule R160). -/
theorem accumulated_accPush (P : Params) (b : Byte) (s : State) :
    accumulated P (accPush P b s) = accumulated P s ++ [b] := by
  have hb : accBlank P (accPush P b s) = accBlank P s := rfl
  simp only [accumulated, accPush_accLen, accPush_acc, hb, List.range_succ, List.map_append,
    List.map_cons, List.map_nil, Memory.read_write, if_true]
  congr 1
  apply List.map_congr_left
  intro o ho
  rw [if_neg (Nat.ne_of_lt (List.mem_range.mp ho))]

theorem length_accumulated (P : Params) (s : State) : (accumulated P s).length = s.accLen := by
  simp [accumulated]

theorem accumulated_accClear (P : Params) (s : State) : accumulated P (accClear s) = [] := rfl

end Sys2Proof.Machine
end

