-- ==== Sys2Proof/Laws/Ops.lean ====
section
/-!
SUPPORT. What each shared operation can do, said once: the lemmas to cite instead of unfolding it.
-/

namespace Sys2Proof.Machine

/-! ### The pool (rules R130, R133) -/

theorem poolAcquire_eq_some {s t : State} {i : Nat} :
    poolAcquire s = some (i, t) ↔ ∃ rest, s.free = i :: rest ∧ t = { s with free := rest } := by
  unfold poolAcquire
  split
  · rename_i h
    simp [h]
  · rename_i j rest h
    simp only [Option.some.injEq, Prod.mk.injEq, h, List.cons.injEq]
    constructor
    · rintro ⟨rfl, rfl⟩
      exact ⟨rest, ⟨rfl, rfl⟩, rfl⟩
    · rintro ⟨r, ⟨rfl, rfl⟩, rfl⟩
      exact ⟨rfl, rfl⟩

theorem poolAcquire_eq_none {s : State} : poolAcquire s = none ↔ s.free = [] := by
  unfold poolAcquire
  split <;> simp [*]

theorem poolAcquire_of_cons {s : State} {i : Nat} {rest : List Nat} (h : s.free = i :: rest) :
    poolAcquire s = some (i, { s with free := rest }) :=
  poolAcquire_eq_some.mpr ⟨rest, h, rfl⟩

theorem txAcquire_eq_some {P : Params} {s t : State} {i : Nat} :
    txAcquire P s = some (i, t) ↔
      P.rxReserve < s.free.length ∧ ∃ rest, s.free = i :: rest ∧ t = { s with free := rest } := by
  unfold txAcquire
  split
  · rename_i h
    simp only [reduceCtorEq, false_iff, not_and]
    intro h'
    omega
  · rename_i h
    rw [poolAcquire_eq_some]
    constructor
    · exact fun h' => ⟨by omega, h'⟩
    · exact fun h' => h'.2

theorem txAcquire_eq_none {P : Params} {s : State} :
    txAcquire P s = none ↔ s.free.length ≤ P.rxReserve := by
  unfold txAcquire
  split
  · simp [*]
  · rename_i h
    rw [poolAcquire_eq_none]
    constructor
    · intro h'
      simp [h'] at h
    · exact fun h' => absurd h' h

theorem txAcquire_of_cons {P : Params} {s : State} {i : Nat} {rest : List Nat}
    (hlt : P.rxReserve < s.free.length) (h : s.free = i :: rest) :
    txAcquire P s = some (i, { s with free := rest }) :=
  txAcquire_eq_some.mpr ⟨hlt, rest, h, rfl⟩

/-! ### Slots and channels (rules R21, R36) -/

theorem slotOf_setSlot_self {i : Nat} {s : State} (h : SlotHeader) (hi : i < s.hdr.length) :
    slotOf i (setSlot i h s) = h := by
  simp [slotOf, setSlot, hi]

theorem slotOf_setSlot_ne {i j : Nat} (h : SlotHeader) (s : State) (hij : i ≠ j) :
    slotOf j (setSlot i h s) = slotOf j s := by
  simp [slotOf, setSlot, List.getElem?_set_ne hij]

theorem chanOf_setChan_self {c : Nat} {s : State} (k : Channel) (hc : c < s.ch.length) :
    chanOf c (setChan c k s) = k := by
  simp [chanOf, setChan, hc]

theorem chanOf_setChan_ne {c d : Nat} (k : Channel) (s : State) (hcd : c ≠ d) :
    chanOf d (setChan c k s) = chanOf d s := by
  simp [chanOf, setChan, List.getElem?_set_ne hcd]

theorem chanOf_eq_of_getElem? {c : Nat} {s : State} {k : Channel} (h : s.ch[c]? = some k) :
    chanOf c s = k := by
  simp [chanOf, h]

/-- A registered channel is in the table. -/
theorem lt_of_reg {c : Nat} {s : State} (h : (chanOf c s).reg = true) : c < s.ch.length := by
  by_contra hc
  simp [chanOf, List.getElem?_eq_none (Nat.le_of_not_lt hc), Channel.idle] at h

/-! ### The checks of a channel command (rule R207) -/

theorem chanCheck_out_of_range {P : Params} {c : Nat} {b : Bool} {s t : State} (h : P.nchan ≤ c) :
    chanCheck P c b s t = respond .invalid 0 s := if_pos h

theorem chanCheck_unregistered {P : Params} {c : Nat} {s t : State}
    (h : (chanOf c s).reg = false) : chanCheck P c true s t = respond .invalid 0 s := by
  simp [chanCheck, h]

theorem chanCheck_registered {P : Params} {c : Nat} {b : Bool} {s t : State} (hc : c < P.nchan)
    (h : (chanOf c s).reg = true) : chanCheck P c b s t = t := by
  simp [chanCheck, h, Nat.not_le.mpr hc]

theorem chanCheck_any {P : Params} {c : Nat} {s t : State} (hc : c < P.nchan) :
    chanCheck P c false s t = t := by
  simp [chanCheck, Nat.not_le.mpr hc]

/-- A channel command either answers `INVALID` and changes nothing else, or does the rest. -/
theorem chanCheck_cases (P : Params) (c : Nat) (b : Bool) (s t : State) :
    chanCheck P c b s t = respond .invalid 0 s ∨
      (c < P.nchan ∧ (b = true → (chanOf c s).reg = true) ∧ chanCheck P c b s t = t) := by
  unfold chanCheck
  split
  · exact .inl rfl
  · rename_i h
    split
    · exact .inl rfl
    · rename_i h'
      refine .inr ⟨Nat.lt_of_not_le h, ?_, rfl⟩
      intro hb
      simpa [hb] using h'

/-! ### The response words as numbers (rules R94, R96, R97) -/

/-- Two bit fields side by side, as a number. -/
theorem append_toNat {m n : Nat} (x : BitVec m) (y : BitVec n) :
    (x ++ y).toNat = x.toNat * 2 ^ n + y.toNat := by
  rw [BitVec.toNat_append, ← Nat.shiftLeft_add_eq_or_of_lt y.isLt, Nat.shiftLeft_eq]

/-- The response word is `(ST << 24) | DATA`. -/
theorem rspWord_toNat (st : Status) (d : BitVec 16) :
    (rspWord st d).toNat = st.code.toNat * 2 ^ 24 + d.toNat := by
  have h : (rspWord st d).toNat =
      ((st.code.setWidth 8 ++ 0#8) ++ d : BitVec (8 + 8 + 16)).toNat := rfl
  rw [h, append_toNat, append_toNat]
  have := st.code.isLt
  simp only [BitVec.toNat_setWidth]
  rw [Nat.mod_eq_of_lt (by omega)]
  simp
  omega

/-- The layout of STATUS's data. -/
theorem statusData_toNat (k : Channel) :
    (statusData k).toNat =
      k.cstat.code.toNat * 16 + (if k.reg then 4 else 0) + k.cstate.code.toNat := by
  have h : (statusData k).toNat =
      (0#9 ++ k.cstat.code ++ 0#1 ++ BitVec.ofBool k.reg ++ k.cstate.code :
        BitVec (9 + 3 + 1 + 1 + 2)).toNat := rfl
  simp only [h, append_toNat]
  cases k.reg <;> simp <;> omega

/-- The layout of LINKSTAT's data. -/
theorem linkstatData_toNat {s : State} (h : s.free.length < 256) :
    (linkstatData s).toNat =
      s.free.length * 256 + s.rxState.code.toNat * 4 + s.txState.code.toNat := by
  have h' : (linkstatData s).toNat =
      (BitVec.ofNat 8 s.free.length ++ 0#4 ++ s.rxState.code ++ s.txState.code :
        BitVec (8 + 4 + 2 + 2)).toNat := rfl
  simp only [h', append_toNat, BitVec.toNat_ofNat, Nat.mod_eq_of_lt h]
  simp
  omega

/-! ### The transmit half (rules R140 to R145) -/

/-- `StartSend` on a queue with a head (rule R142). -/
theorem startSend_of_cons {P : Params} {s : State} {h : Nat} {rest : List Nat}
    (hq : s.txq = h :: rest) :
    startSend P s =
      { setSlot h { slotOf h s with atype := .data s.txState.seq } s with
        wireTx := s.wireTx ++
          [slotMessage P h (setSlot h { slotOf h s with atype := .data s.txState.seq } s)]
        txT0 := nowOf P s
        txRetries := 0
        txState := .wait s.txState.seq } := by
  simp only [startSend, hq]
  rfl

/-- `StartSend` of a head in the table, with what it reads resolved (rule R142). -/
theorem startSend_of_head {P : Params} {s : State} {i : Nat} {rest : List Nat} {k : SlotHeader}
    {n : Bool} (hq : s.txq = i :: rest) (hi : i < s.hdr.length) (hk : slotOf i s = k)
    (hn : s.txState = .rdy n) :
    startSend P s =
      { s with
        hdr := s.hdr.set i { k with atype := .data n }
        wireTx := s.wireTx ++
          [message P (raw P k.chan k.ctype (.data n) (payload P i k.len s))]
        txT0 := clip P s.now
        txRetries := 0
        txState := .wait n } := by
  rw [startSend_of_cons hq, hn, hk]
  simp only [TxState.seq, slotMessage]
  rw [slotOf_setSlot_self _ hi]
  rfl

/-- The connect timeout never wraps (rule R77 (iv)). -/
theorem connectTicks_eq (P : Params) (sec : BitVec 16) :
    connectTicks P sec = BitVec.ofNat 64 (sec.toNat * P.tickHz) := by
  have h := P.tickHz_lt
  have h1 : sec.toNat * P.tickHz ≤ 65535 * P.tickHz :=
    Nat.mul_le_mul_right _ (by have := sec.isLt; omega)
  have h2 : 2 ^ (P.timeBits - 1) ≤ 2 ^ P.timeBits := Nat.pow_le_pow_right (by decide) (by omega)
  rw [connectTicks, Nat.mod_eq_of_lt (by omega)]

/-- `Submit` while a frame is in flight queues the slot and does nothing else (rule R140). -/
theorem submit_waiting {P : Params} {s : State} (i : Nat) (h : s.txState.phase = true) :
    submit P i s = { s with txq := s.txq ++ [i] } := by
  simp [submit, h]

/-- `Submit` while the transmitter is idle starts sending (rule R140). -/
theorem submit_idle {P : Params} {s : State} (i : Nat) (h : s.txState.phase = false) :
    submit P i s = startSend P { s with txq := s.txq ++ [i] } := by
  simp [submit, h]

/-- `TxAck` of the awaited sequence (rule R143). -/
theorem txAck_matching {P : Params} {s : State} {n : Bool} {h : Nat} {rest : List Nat}
    (hw : s.txState = .wait n) (hq : s.txq = h :: rest) :
    txAck P n s =
      sendNext P (ackEvent P (slotOf h s).ctype (slotOf h s).chan.toNat
        { s with txq := rest, free := s.free ++ [h], txState := .rdy (toggle n) }) := by
  simp only [txAck, hw, hq, if_true]
  rfl

/-! ### The receive half (rules R160 to R166) -/

/-- `ChannelRelease` with a delivered frame not yet acknowledged (rule R166). -/
theorem channelRelease_bufret {P : Params} {s : State} {n : Bool} (i : Nat)
    (h : s.rxState = .bufret n) :
    channelRelease P i s =
      { s with
        free := s.free ++ [i]
        wireTx := s.wireTx ++ [ackMessage P n]
        rxState := .await (toggle n) } := by
  simp only [channelRelease, h]
  rfl

/-- `ChannelRelease` with nothing to acknowledge is a plain release (rule R166). -/
theorem channelRelease_await {P : Params} {s : State} {n : Bool} (i : Nat)
    (h : s.rxState = .await n) : channelRelease P i s = poolRelease i s := by
  simp only [channelRelease, h]

/-- Releasing slots when no frame is unacknowledged sends nothing (rules R166, R192). -/
theorem releaseAll_await (P : Params) (l : List Nat) :
    ∀ s : State, s.rxState.phase = false → releaseAll P l s = { s with free := s.free ++ l } := by
  induction l with
  | nil => intro s _; simp [releaseAll]
  | cons a l ih =>
    intro s hs
    simp only [releaseAll]
    cases hr : s.rxState with
    | await n =>
      rw [channelRelease_await _ hr, ih (poolRelease a s) hs]
      simp [poolRelease, hr]
    | bufret n => simp [hr, RxState.phase] at hs

/-- What a received message can do (rules R161, R251, R252): it is lost for want of a slot, or turned
away with one turn of `FREE`, or stored and dispatched. -/
theorem receive_cases (P : Params) (v : Option RawFrame) (s : State) :
    (s.free = [] ∧ receive P v s = accClear s) ∨
    (∃ i rest, s.free = i :: rest ∧ v = none ∧
      receive P v s = { accClear s with free := rest ++ [i] }) ∨
    (∃ i rest f, s.free = i :: rest ∧ v = some f ∧
      receive P v s = dispatch P i (storeFrame P i f { accClear s with free := rest })) := by
  cases hf : s.free with
  | nil => exact .inl ⟨rfl, by simp [receive, poolAcquire, hf]⟩
  | cons i rest =>
    cases v with
    | none => exact .inr (.inl ⟨i, rest, rfl, rfl, by simp only [receive, poolAcquire, hf]; rfl⟩)
    | some f =>
      exact .inr (.inr ⟨i, rest, f, rfl, rfl, by simp only [receive, poolAcquire, hf]; rfl⟩)

/-- The header of a slot just filled (rule R161). -/
theorem slotOf_storeFrame_self {P : Params} {i : Nat} {s : State} (f : RawFrame)
    (hi : i < s.hdr.length) :
    slotOf i (storeFrame P i f s) =
      { chan := f.chan, ctype := CType.ofByte f.ctype, atype := AType.ofByte f.atype,
        len := f.pay.length } := by
  unfold storeFrame
  rw [storeBytes_eq]
  exact slotOf_setSlot_self _ hi

theorem slotOf_storeFrame_ne {P : Params} {i j : Nat} {s : State} (f : RawFrame) (hij : i ≠ j) :
    slotOf j (storeFrame P i f s) = slotOf j s := by
  unfold storeFrame
  rw [storeBytes_eq]
  exact slotOf_setSlot_ne _ _ hij

/-- A received byte that is no delimiter is accumulated while there is room (rule R160). -/
theorem rxByte_data {P : Params} {b : Byte} {s : State} (he : b ≠ P.eom) (hs : b ≠ P.som)
    (hl : s.accLen < P.accCap) : rxByte P b s = accPush P b s := by
  simp [rxByte, he, hs, hl]

/-- A data byte that does not fit is dropped and remembered (rule R160). -/
theorem rxByte_full {P : Params} {b : Byte} {s : State} (he : b ≠ P.eom) (hs : b ≠ P.som)
    (hl : P.accCap ≤ s.accLen) : rxByte P b s = { s with accOvf := true } := by
  simp [rxByte, he, hs, Nat.not_lt.mpr hl]

theorem rxByte_eom (P : Params) (s : State) : rxByte P P.eom s = rxMessage P s := by
  simp [rxByte]

theorem rxByte_som (P : Params) (s : State) : rxByte P P.som s = accClear s := by
  simp [rxByte, P.som_ne_eom]

theorem rxBytes_append (P : Params) (as bs : List Byte) (s : State) :
    rxBytes P (as ++ bs) s = rxBytes P bs (rxBytes P as s) := by
  induction as generalizing s with
  | nil => rfl
  | cons a as ih => exact ih _

/-- What a run of data bytes leaves: the fields but the accumulator's are untouched. -/
def accPushes (P : Params) : List Byte → State → State
  | [], s => s
  | b :: bs, s => accPushes P bs (accPush P b s)

theorem rxBytes_data {P : Params} {bs : List Byte} :
    ∀ {s : State}, (∀ b ∈ bs, b ≠ P.som ∧ b ≠ P.eom) → s.accLen + bs.length ≤ P.accCap →
      rxBytes P bs s = accPushes P bs s := by
  induction bs with
  | nil => intro s _ _; rfl
  | cons b bs ih =>
    intro s hb hl
    simp only [List.length_cons] at hl
    have h1 := hb b List.mem_cons_self
    simp only [rxBytes, accPushes, rxByte_data h1.2 h1.1 (show s.accLen < P.accCap by omega)]
    apply ih (fun c hc => hb c (List.mem_cons_of_mem _ hc))
    simp only [accPush_accLen]
    omega

/-- Data bytes are accumulated in their order (rules R160, R64). -/
theorem accumulated_accPushes (P : Params) (bs : List Byte) :
    ∀ s : State, accumulated P (accPushes P bs s) = accumulated P s ++ bs := by
  induction bs with
  | nil => intro s; simp [accPushes]
  | cons b bs ih => intro s; simp [accPushes, ih, accumulated_accPush]

/-- Accumulating bytes changes the accumulator and its count alone. -/
theorem accPushes_eq (P : Params) (bs : List Byte) :
    ∀ s : State, accPushes P bs s =
      { s with acc := (accPushes P bs s).acc, accLen := s.accLen + bs.length } := by
  induction bs with
  | nil => intro s; rfl
  | cons b bs ih =>
    intro s
    rw [accPushes, ih]
    simp only [accPush, List.length_cons]
    congr 1
    omega

/-- Data bytes that find the accumulator full set `accOvf` and change nothing else (rule R160). -/
theorem rxBytes_full {P : Params} {bs : List Byte} :
    ∀ {s : State}, (∀ b ∈ bs, b ≠ P.eom ∧ b ≠ P.som) → P.accCap ≤ s.accLen →
      rxBytes P bs s = { s with accOvf := s.accOvf || decide (bs ≠ []) } := by
  induction bs with
  | nil => intro s _ _; simp [rxBytes]
  | cons b bs ih =>
    intro s hb hl
    have h1 := hb b List.mem_cons_self
    rw [rxBytes, rxByte_full h1.1 h1.2 hl]
    refine (ih (s := { s with accOvf := true }) (fun c hc => hb c (List.mem_cons_of_mem _ hc)) hl).trans ?_
    simp

theorem accPushes_accOvf (P : Params) (bs : List Byte) :
    ∀ s : State, (accPushes P bs s).accOvf = s.accOvf := by
  induction bs with
  | nil => intro s; rfl
  | cons b bs ih => intro s; simp [accPushes, ih]

/-! ### What registers hold (rules R76, R77, R94, R95, R144) -/

/-- Every response of the block has the layout of the response word: only `SUCCESS` comes with data. -/
theorem responseWf_rspWord {st : Status} {d : BitVec 16} (h : st = .success ∨ d = 0) :
    ResponseWf (rspWord st d) := by
  have hw := rspWord_toNat st d
  have hc : st.code.toNat ≤ 5 := by cases st <;> decide
  have hd := d.isLt
  have h8 : (0 : BitVec 8).toNat = 0 := rfl
  have h16 : (0 : BitVec 16).toNat = 0 := rfl
  have h1 : ((rspWord st d).extractLsb' 24 8).toNat = st.code.toNat := by
    rw [BitVec.extractLsb'_toNat, Nat.shiftRight_eq_div_pow, hw]
    omega
  refine ⟨h1 ▸ hc, ?_, fun hne => ?_⟩
  · apply BitVec.eq_of_toNat_eq
    rw [BitVec.extractLsb'_toNat, Nat.shiftRight_eq_div_pow, hw, h8]
    omega
  · rcases h with h | h
    · refine absurd (BitVec.eq_of_toNat_eq ?_) hne
      rw [h1, h]
      rfl
    · apply BitVec.eq_of_toNat_eq
      rw [BitVec.extractLsb'_toNat, Nat.shiftRight_eq_div_pow, hw, h, h16]
      omega

theorem responseWf_zero : ResponseWf 0 := ⟨by decide, rfl, fun h => absurd rfl h⟩

/-- A retransmission below the ceiling does not pass it (rules R77, R144). -/
theorem bumpRetries_le {P : Params} {s : State} (h : atCeiling P s = false) (hp : P.retryMax ≠ 0) :
    (bumpRetries s.txRetries).toNat ≤ P.retryMax := by
  simp only [atCeiling, hp, ne_eq, not_false_eq_true, decide_true, Bool.true_and,
    decide_eq_false_iff_not, Nat.not_le] at h
  unfold bumpRetries
  split
  · rename_i he
    rw [he] at h
    exact Nat.le_of_lt h
  · rw [BitVec.toNat_add]
    have := s.txRetries.isLt
    have : (1 : BitVec 8).toNat = 1 := rfl
    omega

theorem timeFits_zero (P : Params) : timeFits P 0 := Nat.two_pow_pos _

/-- What is stored as a time fits (rule R76). -/
theorem timeFits_clip (P : Params) (t : Time) : timeFits P (clip P t) := by
  have h := Nat.mod_lt t.toNat (Nat.two_pow_pos P.timeBits)
  exact Nat.lt_of_le_of_lt (Nat.mod_le _ _) h

/-- The connect timeout fits (rule R77). -/
theorem timeFits_connectTicks (P : Params) (sec : BitVec 16) : timeFits P (connectTicks P sec) := by
  have h := Nat.mod_lt (sec.toNat * P.tickHz) (Nat.two_pow_pos P.timeBits)
  exact Nat.lt_of_le_of_lt (Nat.mod_le _ _) h

/-! ### Runs (rule R7) -/

/-- What holds at reset and is kept by every event holds between commands, whatever the host and the wire
do. -/
theorem reachable_of_eventStep {Inv : State → Prop} (hr : Inv State.reset)
    (he : ∀ e s t, Inv s → eventStep e s = .next t → Inv t) {s : State} (hs : Reachable s) : Inv s := by
  induction hs with
  | reset => exact hr
  | event e _ h ih => exact he e _ _ ih h

/-! ### The timers (rules R76, R205) -/

theorem chanTimer_eq (P : Params) {c : Nat} {s : State} (hc : c < s.ch.length) :
    chanTimer P c s = setChan c (timedChannel P s (chanOf c s)) s := by
  have hself : setChan c (chanOf c s) s = s := by
    simp [setChan, chanOf, List.getElem?_eq_getElem hc, List.set_getElem_self]
  unfold chanTimer timedChannel
  cases hr : (chanOf c s).reg <;> cases hk : (chanOf c s).cstate <;>
    simp [hself, expired] <;> split_ifs <;> simp_all

theorem chanTimers_append (P : Params) (as bs : List Nat) :
    ∀ s : State, chanTimers P (as ++ bs) s = chanTimers P bs (chanTimers P as s) := by
  induction as with
  | nil => intro s; rfl
  | cons a as ih => intro s; simp [chanTimers, ih]

/-- The handshake timers of the first `n` channels replace each of them by `timedChannel` of itself, and
change nothing else (rules R205, R232). -/
theorem chanTimers_range (P : Params) (n : Nat) :
    ∀ s : State, n ≤ s.ch.length →
      chanTimers P (List.range n) s =
        { s with ch := (s.ch.take n).map (timedChannel P s) ++ s.ch.drop n } := by
  induction n with
  | zero => intro s _; simp [chanTimers]
  | succ n ih =>
    intro s hn
    rw [List.range_succ, chanTimers_append, ih s (by omega)]
    simp only [chanTimers]
    rw [chanTimer_eq P (by simp; omega)]
    simp only [setChan]
    congr 1
    have ht : ∀ k x, timedChannel P { s with ch := x } k = timedChannel P s k := fun _ _ => rfl
    rw [ht]
    apply List.ext_getElem?
    intro d
    have hlt : n < s.ch.length := by omega
    have h1 : min n s.ch.length = n := by omega
    have h2 : min (n + 1) s.ch.length = n + 1 := by omega
    by_cases hd : n = d
    · subst hd
      simp [chanOf, h1, hlt]
    · rw [List.getElem?_set_ne hd]
      simp only [List.getElem?_append, List.length_map, List.length_take, h1, h2]
      by_cases h3 : d < n
      · simp [h3, show d < n + 1 by omega]
      · simp only [h3, show ¬d < n + 1 by omega, if_false, List.getElem?_drop]
        congr 1
        omega

end Sys2Proof.Machine
end

