-- ==== Sys2Proof/Laws/Frames.lean ====
section
/-!
SUPPORT. The frames of the operations: which fields each operation leaves alone, one lemma per field.
-/

namespace Sys2Proof.Machine

/-! ### `startSend` -/

@[simp] theorem startSend_pay (P : Params) (s : State) : (startSend P s).pay = s.pay := by
  unfold startSend
  try dsimp only
  repeat' split
  all_goals simp
@[simp] theorem startSend_free (P : Params) (s : State) : (startSend P s).free = s.free := by
  unfold startSend
  try dsimp only
  repeat' split
  all_goals simp
@[simp] theorem startSend_txq (P : Params) (s : State) : (startSend P s).txq = s.txq := by
  unfold startSend
  try dsimp only
  repeat' split
  all_goals simp
@[simp] theorem startSend_rxState (P : Params) (s : State) :
    (startSend P s).rxState = s.rxState := by
  unfold startSend
  try dsimp only
  repeat' split
  all_goals simp
@[simp] theorem startSend_acc (P : Params) (s : State) : (startSend P s).acc = s.acc := by
  unfold startSend
  try dsimp only
  repeat' split
  all_goals simp
@[simp] theorem startSend_accLen (P : Params) (s : State) : (startSend P s).accLen = s.accLen := by
  unfold startSend
  try dsimp only
  repeat' split
  all_goals simp
@[simp] theorem startSend_accOvf (P : Params) (s : State) : (startSend P s).accOvf = s.accOvf := by
  unfold startSend
  try dsimp only
  repeat' split
  all_goals simp
@[simp] theorem startSend_ch (P : Params) (s : State) : (startSend P s).ch = s.ch := by
  unfold startSend
  try dsimp only
  repeat' split
  all_goals simp
@[simp] theorem startSend_wireRx (P : Params) (s : State) : (startSend P s).wireRx = s.wireRx := by
  unfold startSend
  try dsimp only
  repeat' split
  all_goals simp
@[simp] theorem startSend_cmd (P : Params) (s : State) : (startSend P s).cmd = s.cmd := by
  unfold startSend
  try dsimp only
  repeat' split
  all_goals simp
@[simp] theorem startSend_now (P : Params) (s : State) : (startSend P s).now = s.now := by
  unfold startSend
  try dsimp only
  repeat' split
  all_goals simp
@[simp] theorem startSend_rsp (P : Params) (s : State) : (startSend P s).rsp = s.rsp := by
  unfold startSend
  try dsimp only
  repeat' split
  all_goals simp
@[simp] theorem startSend_epoch (P : Params) (s : State) : (startSend P s).epoch = s.epoch := by
  unfold startSend
  try dsimp only
  repeat' split
  all_goals simp

/-! ### `sendNext` -/

@[simp] theorem sendNext_pay (P : Params) (s : State) : (sendNext P s).pay = s.pay := by
  unfold sendNext
  try dsimp only
  repeat' split
  all_goals simp
@[simp] theorem sendNext_free (P : Params) (s : State) : (sendNext P s).free = s.free := by
  unfold sendNext
  try dsimp only
  repeat' split
  all_goals simp
@[simp] theorem sendNext_txq (P : Params) (s : State) : (sendNext P s).txq = s.txq := by
  unfold sendNext
  try dsimp only
  repeat' split
  all_goals simp
@[simp] theorem sendNext_rxState (P : Params) (s : State) : (sendNext P s).rxState = s.rxState := by
  unfold sendNext
  try dsimp only
  repeat' split
  all_goals simp
@[simp] theorem sendNext_acc (P : Params) (s : State) : (sendNext P s).acc = s.acc := by
  unfold sendNext
  try dsimp only
  repeat' split
  all_goals simp
@[simp] theorem sendNext_accLen (P : Params) (s : State) : (sendNext P s).accLen = s.accLen := by
  unfold sendNext
  try dsimp only
  repeat' split
  all_goals simp
@[simp] theorem sendNext_accOvf (P : Params) (s : State) : (sendNext P s).accOvf = s.accOvf := by
  unfold sendNext
  try dsimp only
  repeat' split
  all_goals simp
@[simp] theorem sendNext_ch (P : Params) (s : State) : (sendNext P s).ch = s.ch := by
  unfold sendNext
  try dsimp only
  repeat' split
  all_goals simp
@[simp] theorem sendNext_wireRx (P : Params) (s : State) : (sendNext P s).wireRx = s.wireRx := by
  unfold sendNext
  try dsimp only
  repeat' split
  all_goals simp
@[simp] theorem sendNext_cmd (P : Params) (s : State) : (sendNext P s).cmd = s.cmd := by
  unfold sendNext
  try dsimp only
  repeat' split
  all_goals simp
@[simp] theorem sendNext_now (P : Params) (s : State) : (sendNext P s).now = s.now := by
  unfold sendNext
  try dsimp only
  repeat' split
  all_goals simp
@[simp] theorem sendNext_rsp (P : Params) (s : State) : (sendNext P s).rsp = s.rsp := by
  unfold sendNext
  try dsimp only
  repeat' split
  all_goals simp
@[simp] theorem sendNext_epoch (P : Params) (s : State) : (sendNext P s).epoch = s.epoch := by
  unfold sendNext
  try dsimp only
  repeat' split
  all_goals simp

/-! ### `submit` -/

@[simp] theorem submit_pay (P : Params) (i : Nat) (s : State) : (submit P i s).pay = s.pay := by
  unfold submit
  try dsimp only
  repeat' split
  all_goals simp
@[simp] theorem submit_free (P : Params) (i : Nat) (s : State) : (submit P i s).free = s.free := by
  unfold submit
  try dsimp only
  repeat' split
  all_goals simp
@[simp] theorem submit_rxState (P : Params) (i : Nat) (s : State) :
    (submit P i s).rxState = s.rxState := by
  unfold submit
  try dsimp only
  repeat' split
  all_goals simp
@[simp] theorem submit_acc (P : Params) (i : Nat) (s : State) : (submit P i s).acc = s.acc := by
  unfold submit
  try dsimp only
  repeat' split
  all_goals simp
@[simp] theorem submit_accLen (P : Params) (i : Nat) (s : State) :
    (submit P i s).accLen = s.accLen := by
  unfold submit
  try dsimp only
  repeat' split
  all_goals simp
@[simp] theorem submit_accOvf (P : Params) (i : Nat) (s : State) :
    (submit P i s).accOvf = s.accOvf := by
  unfold submit
  try dsimp only
  repeat' split
  all_goals simp
@[simp] theorem submit_ch (P : Params) (i : Nat) (s : State) : (submit P i s).ch = s.ch := by
  unfold submit
  try dsimp only
  repeat' split
  all_goals simp
@[simp] theorem submit_wireRx (P : Params) (i : Nat) (s : State) :
    (submit P i s).wireRx = s.wireRx := by
  unfold submit
  try dsimp only
  repeat' split
  all_goals simp
@[simp] theorem submit_cmd (P : Params) (i : Nat) (s : State) : (submit P i s).cmd = s.cmd := by
  unfold submit
  try dsimp only
  repeat' split
  all_goals simp
@[simp] theorem submit_now (P : Params) (i : Nat) (s : State) : (submit P i s).now = s.now := by
  unfold submit
  try dsimp only
  repeat' split
  all_goals simp
@[simp] theorem submit_rsp (P : Params) (i : Nat) (s : State) : (submit P i s).rsp = s.rsp := by
  unfold submit
  try dsimp only
  repeat' split
  all_goals simp
@[simp] theorem submit_epoch (P : Params) (i : Nat) (s : State) :
    (submit P i s).epoch = s.epoch := by
  unfold submit
  try dsimp only
  repeat' split
  all_goals simp

/-! ### `submitAsm` -/

@[simp] theorem submitAsm_pay (P : Params) (asm : Option Nat) (s : State) :
    (submitAsm P asm s).pay = s.pay := by
  unfold submitAsm
  try dsimp only
  repeat' split
  all_goals simp
@[simp] theorem submitAsm_free (P : Params) (asm : Option Nat) (s : State) :
    (submitAsm P asm s).free = s.free := by
  unfold submitAsm
  try dsimp only
  repeat' split
  all_goals simp
@[simp] theorem submitAsm_rxState (P : Params) (asm : Option Nat) (s : State) :
    (submitAsm P asm s).rxState = s.rxState := by
  unfold submitAsm
  try dsimp only
  repeat' split
  all_goals simp
@[simp] theorem submitAsm_acc (P : Params) (asm : Option Nat) (s : State) :
    (submitAsm P asm s).acc = s.acc := by
  unfold submitAsm
  try dsimp only
  repeat' split
  all_goals simp
@[simp] theorem submitAsm_accLen (P : Params) (asm : Option Nat) (s : State) :
    (submitAsm P asm s).accLen = s.accLen := by
  unfold submitAsm
  try dsimp only
  repeat' split
  all_goals simp
@[simp] theorem submitAsm_accOvf (P : Params) (asm : Option Nat) (s : State) :
    (submitAsm P asm s).accOvf = s.accOvf := by
  unfold submitAsm
  try dsimp only
  repeat' split
  all_goals simp
@[simp] theorem submitAsm_ch (P : Params) (asm : Option Nat) (s : State) :
    (submitAsm P asm s).ch = s.ch := by
  unfold submitAsm
  try dsimp only
  repeat' split
  all_goals simp
@[simp] theorem submitAsm_wireRx (P : Params) (asm : Option Nat) (s : State) :
    (submitAsm P asm s).wireRx = s.wireRx := by
  unfold submitAsm
  try dsimp only
  repeat' split
  all_goals simp
@[simp] theorem submitAsm_cmd (P : Params) (asm : Option Nat) (s : State) :
    (submitAsm P asm s).cmd = s.cmd := by
  unfold submitAsm
  try dsimp only
  repeat' split
  all_goals simp
@[simp] theorem submitAsm_now (P : Params) (asm : Option Nat) (s : State) :
    (submitAsm P asm s).now = s.now := by
  unfold submitAsm
  try dsimp only
  repeat' split
  all_goals simp
@[simp] theorem submitAsm_rsp (P : Params) (asm : Option Nat) (s : State) :
    (submitAsm P asm s).rsp = s.rsp := by
  unfold submitAsm
  try dsimp only
  repeat' split
  all_goals simp
@[simp] theorem submitAsm_epoch (P : Params) (asm : Option Nat) (s : State) :
    (submitAsm P asm s).epoch = s.epoch := by
  unfold submitAsm
  try dsimp only
  repeat' split
  all_goals simp

/-! ### `releaseAsm` -/

@[simp] theorem releaseAsm_hdr (asm : Option Nat) (s : State) : (releaseAsm asm s).hdr = s.hdr := by
  unfold releaseAsm
  try dsimp only
  repeat' split
  all_goals simp
@[simp] theorem releaseAsm_pay (asm : Option Nat) (s : State) : (releaseAsm asm s).pay = s.pay := by
  unfold releaseAsm
  try dsimp only
  repeat' split
  all_goals simp
@[simp] theorem releaseAsm_txState (asm : Option Nat) (s : State) :
    (releaseAsm asm s).txState = s.txState := by
  unfold releaseAsm
  try dsimp only
  repeat' split
  all_goals simp
@[simp] theorem releaseAsm_txq (asm : Option Nat) (s : State) : (releaseAsm asm s).txq = s.txq := by
  unfold releaseAsm
  try dsimp only
  repeat' split
  all_goals simp
@[simp] theorem releaseAsm_txT0 (asm : Option Nat) (s : State) :
    (releaseAsm asm s).txT0 = s.txT0 := by
  unfold releaseAsm
  try dsimp only
  repeat' split
  all_goals simp
@[simp] theorem releaseAsm_txRetries (asm : Option Nat) (s : State) :
    (releaseAsm asm s).txRetries = s.txRetries := by
  unfold releaseAsm
  try dsimp only
  repeat' split
  all_goals simp
@[simp] theorem releaseAsm_rxState (asm : Option Nat) (s : State) :
    (releaseAsm asm s).rxState = s.rxState := by
  unfold releaseAsm
  try dsimp only
  repeat' split
  all_goals simp
@[simp] theorem releaseAsm_acc (asm : Option Nat) (s : State) : (releaseAsm asm s).acc = s.acc := by
  unfold releaseAsm
  try dsimp only
  repeat' split
  all_goals simp
@[simp] theorem releaseAsm_accLen (asm : Option Nat) (s : State) :
    (releaseAsm asm s).accLen = s.accLen := by
  unfold releaseAsm
  try dsimp only
  repeat' split
  all_goals simp
@[simp] theorem releaseAsm_accOvf (asm : Option Nat) (s : State) :
    (releaseAsm asm s).accOvf = s.accOvf := by
  unfold releaseAsm
  try dsimp only
  repeat' split
  all_goals simp
@[simp] theorem releaseAsm_ch (asm : Option Nat) (s : State) : (releaseAsm asm s).ch = s.ch := by
  unfold releaseAsm
  try dsimp only
  repeat' split
  all_goals simp
@[simp] theorem releaseAsm_wireRx (asm : Option Nat) (s : State) :
    (releaseAsm asm s).wireRx = s.wireRx := by
  unfold releaseAsm
  try dsimp only
  repeat' split
  all_goals simp
@[simp] theorem releaseAsm_wireTx (asm : Option Nat) (s : State) :
    (releaseAsm asm s).wireTx = s.wireTx := by
  unfold releaseAsm
  try dsimp only
  repeat' split
  all_goals simp
@[simp] theorem releaseAsm_cmd (asm : Option Nat) (s : State) : (releaseAsm asm s).cmd = s.cmd := by
  unfold releaseAsm
  try dsimp only
  repeat' split
  all_goals simp
@[simp] theorem releaseAsm_now (asm : Option Nat) (s : State) : (releaseAsm asm s).now = s.now := by
  unfold releaseAsm
  try dsimp only
  repeat' split
  all_goals simp
@[simp] theorem releaseAsm_rsp (asm : Option Nat) (s : State) : (releaseAsm asm s).rsp = s.rsp := by
  unfold releaseAsm
  try dsimp only
  repeat' split
  all_goals simp
@[simp] theorem releaseAsm_epoch (asm : Option Nat) (s : State) :
    (releaseAsm asm s).epoch = s.epoch := by
  unfold releaseAsm
  try dsimp only
  repeat' split
  all_goals simp

/-! ### `chanCrAcked` -/

@[simp] theorem chanCrAcked_hdr (P : Params) (c : Nat) (s : State) :
    (chanCrAcked P c s).hdr = s.hdr := by
  unfold chanCrAcked
  try dsimp only
  repeat' split
  all_goals simp
@[simp] theorem chanCrAcked_pay (P : Params) (c : Nat) (s : State) :
    (chanCrAcked P c s).pay = s.pay := by
  unfold chanCrAcked
  try dsimp only
  repeat' split
  all_goals simp
@[simp] theorem chanCrAcked_free (P : Params) (c : Nat) (s : State) :
    (chanCrAcked P c s).free = s.free := by
  unfold chanCrAcked
  try dsimp only
  repeat' split
  all_goals simp
@[simp] theorem chanCrAcked_txState (P : Params) (c : Nat) (s : State) :
    (chanCrAcked P c s).txState = s.txState := by
  unfold chanCrAcked
  try dsimp only
  repeat' split
  all_goals simp
@[simp] theorem chanCrAcked_txq (P : Params) (c : Nat) (s : State) :
    (chanCrAcked P c s).txq = s.txq := by
  unfold chanCrAcked
  try dsimp only
  repeat' split
  all_goals simp
@[simp] theorem chanCrAcked_txT0 (P : Params) (c : Nat) (s : State) :
    (chanCrAcked P c s).txT0 = s.txT0 := by
  unfold chanCrAcked
  try dsimp only
  repeat' split
  all_goals simp
@[simp] theorem chanCrAcked_txRetries (P : Params) (c : Nat) (s : State) :
    (chanCrAcked P c s).txRetries = s.txRetries := by
  unfold chanCrAcked
  try dsimp only
  repeat' split
  all_goals simp
@[simp] theorem chanCrAcked_rxState (P : Params) (c : Nat) (s : State) :
    (chanCrAcked P c s).rxState = s.rxState := by
  unfold chanCrAcked
  try dsimp only
  repeat' split
  all_goals simp
@[simp] theorem chanCrAcked_acc (P : Params) (c : Nat) (s : State) :
    (chanCrAcked P c s).acc = s.acc := by
  unfold chanCrAcked
  try dsimp only
  repeat' split
  all_goals simp
@[simp] theorem chanCrAcked_accLen (P : Params) (c : Nat) (s : State) :
    (chanCrAcked P c s).accLen = s.accLen := by
  unfold chanCrAcked
  try dsimp only
  repeat' split
  all_goals simp
@[simp] theorem chanCrAcked_accOvf (P : Params) (c : Nat) (s : State) :
    (chanCrAcked P c s).accOvf = s.accOvf := by
  unfold chanCrAcked
  try dsimp only
  repeat' split
  all_goals simp
@[simp] theorem chanCrAcked_wireRx (P : Params) (c : Nat) (s : State) :
    (chanCrAcked P c s).wireRx = s.wireRx := by
  unfold chanCrAcked
  try dsimp only
  repeat' split
  all_goals simp
@[simp] theorem chanCrAcked_wireTx (P : Params) (c : Nat) (s : State) :
    (chanCrAcked P c s).wireTx = s.wireTx := by
  unfold chanCrAcked
  try dsimp only
  repeat' split
  all_goals simp
@[simp] theorem chanCrAcked_cmd (P : Params) (c : Nat) (s : State) :
    (chanCrAcked P c s).cmd = s.cmd := by
  unfold chanCrAcked
  try dsimp only
  repeat' split
  all_goals simp
@[simp] theorem chanCrAcked_now (P : Params) (c : Nat) (s : State) :
    (chanCrAcked P c s).now = s.now := by
  unfold chanCrAcked
  try dsimp only
  repeat' split
  all_goals simp
@[simp] theorem chanCrAcked_rsp (P : Params) (c : Nat) (s : State) :
    (chanCrAcked P c s).rsp = s.rsp := by
  unfold chanCrAcked
  try dsimp only
  repeat' split
  all_goals simp
@[simp] theorem chanCrAcked_epoch (P : Params) (c : Nat) (s : State) :
    (chanCrAcked P c s).epoch = s.epoch := by
  unfold chanCrAcked
  try dsimp only
  repeat' split
  all_goals simp

/-! ### `chanDrAcked` -/

@[simp] theorem chanDrAcked_hdr (P : Params) (c : Nat) (s : State) :
    (chanDrAcked P c s).hdr = s.hdr := by
  unfold chanDrAcked
  try dsimp only
  repeat' split
  all_goals simp
@[simp] theorem chanDrAcked_pay (P : Params) (c : Nat) (s : State) :
    (chanDrAcked P c s).pay = s.pay := by
  unfold chanDrAcked
  try dsimp only
  repeat' split
  all_goals simp
@[simp] theorem chanDrAcked_free (P : Params) (c : Nat) (s : State) :
    (chanDrAcked P c s).free = s.free := by
  unfold chanDrAcked
  try dsimp only
  repeat' split
  all_goals simp
@[simp] theorem chanDrAcked_txState (P : Params) (c : Nat) (s : State) :
    (chanDrAcked P c s).txState = s.txState := by
  unfold chanDrAcked
  try dsimp only
  repeat' split
  all_goals simp
@[simp] theorem chanDrAcked_txq (P : Params) (c : Nat) (s : State) :
    (chanDrAcked P c s).txq = s.txq := by
  unfold chanDrAcked
  try dsimp only
  repeat' split
  all_goals simp
@[simp] theorem chanDrAcked_txT0 (P : Params) (c : Nat) (s : State) :
    (chanDrAcked P c s).txT0 = s.txT0 := by
  unfold chanDrAcked
  try dsimp only
  repeat' split
  all_goals simp
@[simp] theorem chanDrAcked_txRetries (P : Params) (c : Nat) (s : State) :
    (chanDrAcked P c s).txRetries = s.txRetries := by
  unfold chanDrAcked
  try dsimp only
  repeat' split
  all_goals simp
@[simp] theorem chanDrAcked_rxState (P : Params) (c : Nat) (s : State) :
    (chanDrAcked P c s).rxState = s.rxState := by
  unfold chanDrAcked
  try dsimp only
  repeat' split
  all_goals simp
@[simp] theorem chanDrAcked_acc (P : Params) (c : Nat) (s : State) :
    (chanDrAcked P c s).acc = s.acc := by
  unfold chanDrAcked
  try dsimp only
  repeat' split
  all_goals simp
@[simp] theorem chanDrAcked_accLen (P : Params) (c : Nat) (s : State) :
    (chanDrAcked P c s).accLen = s.accLen := by
  unfold chanDrAcked
  try dsimp only
  repeat' split
  all_goals simp
@[simp] theorem chanDrAcked_accOvf (P : Params) (c : Nat) (s : State) :
    (chanDrAcked P c s).accOvf = s.accOvf := by
  unfold chanDrAcked
  try dsimp only
  repeat' split
  all_goals simp
@[simp] theorem chanDrAcked_wireRx (P : Params) (c : Nat) (s : State) :
    (chanDrAcked P c s).wireRx = s.wireRx := by
  unfold chanDrAcked
  try dsimp only
  repeat' split
  all_goals simp
@[simp] theorem chanDrAcked_wireTx (P : Params) (c : Nat) (s : State) :
    (chanDrAcked P c s).wireTx = s.wireTx := by
  unfold chanDrAcked
  try dsimp only
  repeat' split
  all_goals simp
@[simp] theorem chanDrAcked_cmd (P : Params) (c : Nat) (s : State) :
    (chanDrAcked P c s).cmd = s.cmd := by
  unfold chanDrAcked
  try dsimp only
  repeat' split
  all_goals simp
@[simp] theorem chanDrAcked_now (P : Params) (c : Nat) (s : State) :
    (chanDrAcked P c s).now = s.now := by
  unfold chanDrAcked
  try dsimp only
  repeat' split
  all_goals simp
@[simp] theorem chanDrAcked_rsp (P : Params) (c : Nat) (s : State) :
    (chanDrAcked P c s).rsp = s.rsp := by
  unfold chanDrAcked
  try dsimp only
  repeat' split
  all_goals simp
@[simp] theorem chanDrAcked_epoch (P : Params) (c : Nat) (s : State) :
    (chanDrAcked P c s).epoch = s.epoch := by
  unfold chanDrAcked
  try dsimp only
  repeat' split
  all_goals simp

/-! ### `ackEvent` -/

@[simp] theorem ackEvent_hdr (P : Params) (ct : CType) (c : Nat) (s : State) :
    (ackEvent P ct c s).hdr = s.hdr := by
  cases ct <;> simp [ackEvent]
@[simp] theorem ackEvent_pay (P : Params) (ct : CType) (c : Nat) (s : State) :
    (ackEvent P ct c s).pay = s.pay := by
  cases ct <;> simp [ackEvent]
@[simp] theorem ackEvent_free (P : Params) (ct : CType) (c : Nat) (s : State) :
    (ackEvent P ct c s).free = s.free := by
  cases ct <;> simp [ackEvent]
@[simp] theorem ackEvent_txState (P : Params) (ct : CType) (c : Nat) (s : State) :
    (ackEvent P ct c s).txState = s.txState := by
  cases ct <;> simp [ackEvent]
@[simp] theorem ackEvent_txq (P : Params) (ct : CType) (c : Nat) (s : State) :
    (ackEvent P ct c s).txq = s.txq := by
  cases ct <;> simp [ackEvent]
@[simp] theorem ackEvent_txT0 (P : Params) (ct : CType) (c : Nat) (s : State) :
    (ackEvent P ct c s).txT0 = s.txT0 := by
  cases ct <;> simp [ackEvent]
@[simp] theorem ackEvent_txRetries (P : Params) (ct : CType) (c : Nat) (s : State) :
    (ackEvent P ct c s).txRetries = s.txRetries := by
  cases ct <;> simp [ackEvent]
@[simp] theorem ackEvent_rxState (P : Params) (ct : CType) (c : Nat) (s : State) :
    (ackEvent P ct c s).rxState = s.rxState := by
  cases ct <;> simp [ackEvent]
@[simp] theorem ackEvent_acc (P : Params) (ct : CType) (c : Nat) (s : State) :
    (ackEvent P ct c s).acc = s.acc := by
  cases ct <;> simp [ackEvent]
@[simp] theorem ackEvent_accLen (P : Params) (ct : CType) (c : Nat) (s : State) :
    (ackEvent P ct c s).accLen = s.accLen := by
  cases ct <;> simp [ackEvent]
@[simp] theorem ackEvent_accOvf (P : Params) (ct : CType) (c : Nat) (s : State) :
    (ackEvent P ct c s).accOvf = s.accOvf := by
  cases ct <;> simp [ackEvent]
@[simp] theorem ackEvent_wireRx (P : Params) (ct : CType) (c : Nat) (s : State) :
    (ackEvent P ct c s).wireRx = s.wireRx := by
  cases ct <;> simp [ackEvent]
@[simp] theorem ackEvent_wireTx (P : Params) (ct : CType) (c : Nat) (s : State) :
    (ackEvent P ct c s).wireTx = s.wireTx := by
  cases ct <;> simp [ackEvent]
@[simp] theorem ackEvent_cmd (P : Params) (ct : CType) (c : Nat) (s : State) :
    (ackEvent P ct c s).cmd = s.cmd := by
  cases ct <;> simp [ackEvent]
@[simp] theorem ackEvent_now (P : Params) (ct : CType) (c : Nat) (s : State) :
    (ackEvent P ct c s).now = s.now := by
  cases ct <;> simp [ackEvent]
@[simp] theorem ackEvent_rsp (P : Params) (ct : CType) (c : Nat) (s : State) :
    (ackEvent P ct c s).rsp = s.rsp := by
  cases ct <;> simp [ackEvent]
@[simp] theorem ackEvent_epoch (P : Params) (ct : CType) (c : Nat) (s : State) :
    (ackEvent P ct c s).epoch = s.epoch := by
  cases ct <;> simp [ackEvent]

/-! ### `txAck` -/

@[simp] theorem txAck_pay (P : Params) (m : Bool) (s : State) : (txAck P m s).pay = s.pay := by
  unfold txAck
  try dsimp only
  repeat' split
  all_goals simp
@[simp] theorem txAck_rxState (P : Params) (m : Bool) (s : State) :
    (txAck P m s).rxState = s.rxState := by
  unfold txAck
  try dsimp only
  repeat' split
  all_goals simp
@[simp] theorem txAck_acc (P : Params) (m : Bool) (s : State) : (txAck P m s).acc = s.acc := by
  unfold txAck
  try dsimp only
  repeat' split
  all_goals simp
@[simp] theorem txAck_accLen (P : Params) (m : Bool) (s : State) :
    (txAck P m s).accLen = s.accLen := by
  unfold txAck
  try dsimp only
  repeat' split
  all_goals simp
@[simp] theorem txAck_accOvf (P : Params) (m : Bool) (s : State) :
    (txAck P m s).accOvf = s.accOvf := by
  unfold txAck
  try dsimp only
  repeat' split
  all_goals simp
@[simp] theorem txAck_wireRx (P : Params) (m : Bool) (s : State) :
    (txAck P m s).wireRx = s.wireRx := by
  unfold txAck
  try dsimp only
  repeat' split
  all_goals simp
@[simp] theorem txAck_cmd (P : Params) (m : Bool) (s : State) : (txAck P m s).cmd = s.cmd := by
  unfold txAck
  try dsimp only
  repeat' split
  all_goals simp
@[simp] theorem txAck_now (P : Params) (m : Bool) (s : State) : (txAck P m s).now = s.now := by
  unfold txAck
  try dsimp only
  repeat' split
  all_goals simp
@[simp] theorem txAck_rsp (P : Params) (m : Bool) (s : State) : (txAck P m s).rsp = s.rsp := by
  unfold txAck
  try dsimp only
  repeat' split
  all_goals simp
@[simp] theorem txAck_epoch (P : Params) (m : Bool) (s : State) :
    (txAck P m s).epoch = s.epoch := by
  unfold txAck
  try dsimp only
  repeat' split
  all_goals simp

/-! ### `retransmit` -/

@[simp] theorem retransmit_hdr (P : Params) (s : State) : (retransmit P s).hdr = s.hdr := by
  unfold retransmit
  try dsimp only
  repeat' split
  all_goals simp
@[simp] theorem retransmit_pay (P : Params) (s : State) : (retransmit P s).pay = s.pay := by
  unfold retransmit
  try dsimp only
  repeat' split
  all_goals simp
@[simp] theorem retransmit_free (P : Params) (s : State) : (retransmit P s).free = s.free := by
  unfold retransmit
  try dsimp only
  repeat' split
  all_goals simp
@[simp] theorem retransmit_txState (P : Params) (s : State) :
    (retransmit P s).txState = s.txState := by
  unfold retransmit
  try dsimp only
  repeat' split
  all_goals simp
@[simp] theorem retransmit_txq (P : Params) (s : State) : (retransmit P s).txq = s.txq := by
  unfold retransmit
  try dsimp only
  repeat' split
  all_goals simp
@[simp] theorem retransmit_rxState (P : Params) (s : State) :
    (retransmit P s).rxState = s.rxState := by
  unfold retransmit
  try dsimp only
  repeat' split
  all_goals simp
@[simp] theorem retransmit_acc (P : Params) (s : State) : (retransmit P s).acc = s.acc := by
  unfold retransmit
  try dsimp only
  repeat' split
  all_goals simp
@[simp] theorem retransmit_accLen (P : Params) (s : State) :
    (retransmit P s).accLen = s.accLen := by
  unfold retransmit
  try dsimp only
  repeat' split
  all_goals simp
@[simp] theorem retransmit_accOvf (P : Params) (s : State) :
    (retransmit P s).accOvf = s.accOvf := by
  unfold retransmit
  try dsimp only
  repeat' split
  all_goals simp
@[simp] theorem retransmit_ch (P : Params) (s : State) : (retransmit P s).ch = s.ch := by
  unfold retransmit
  try dsimp only
  repeat' split
  all_goals simp
@[simp] theorem retransmit_wireRx (P : Params) (s : State) :
    (retransmit P s).wireRx = s.wireRx := by
  unfold retransmit
  try dsimp only
  repeat' split
  all_goals simp
@[simp] theorem retransmit_cmd (P : Params) (s : State) : (retransmit P s).cmd = s.cmd := by
  unfold retransmit
  try dsimp only
  repeat' split
  all_goals simp
@[simp] theorem retransmit_now (P : Params) (s : State) : (retransmit P s).now = s.now := by
  unfold retransmit
  try dsimp only
  repeat' split
  all_goals simp
@[simp] theorem retransmit_rsp (P : Params) (s : State) : (retransmit P s).rsp = s.rsp := by
  unfold retransmit
  try dsimp only
  repeat' split
  all_goals simp
@[simp] theorem retransmit_epoch (P : Params) (s : State) : (retransmit P s).epoch = s.epoch := by
  unfold retransmit
  try dsimp only
  repeat' split
  all_goals simp

/-! ### `txTimer` -/

@[simp] theorem txTimer_hdr (P : Params) (s : State) : (txTimer P s).hdr = s.hdr := by
  unfold txTimer
  try dsimp only
  repeat' split
  all_goals simp
@[simp] theorem txTimer_pay (P : Params) (s : State) : (txTimer P s).pay = s.pay := by
  unfold txTimer
  try dsimp only
  repeat' split
  all_goals simp
@[simp] theorem txTimer_acc (P : Params) (s : State) : (txTimer P s).acc = s.acc := by
  unfold txTimer
  try dsimp only
  repeat' split
  all_goals simp
@[simp] theorem txTimer_wireRx (P : Params) (s : State) : (txTimer P s).wireRx = s.wireRx := by
  unfold txTimer
  try dsimp only
  repeat' split
  all_goals simp
@[simp] theorem txTimer_cmd (P : Params) (s : State) : (txTimer P s).cmd = s.cmd := by
  unfold txTimer
  try dsimp only
  repeat' split
  all_goals simp
@[simp] theorem txTimer_now (P : Params) (s : State) : (txTimer P s).now = s.now := by
  unfold txTimer
  try dsimp only
  repeat' split
  all_goals simp
@[simp] theorem txTimer_rsp (P : Params) (s : State) : (txTimer P s).rsp = s.rsp := by
  unfold txTimer
  try dsimp only
  repeat' split
  all_goals simp
@[simp] theorem txTimer_epoch (P : Params) (s : State) : (txTimer P s).epoch = s.epoch := by
  unfold txTimer
  try dsimp only
  repeat' split
  all_goals simp

/-! ### `channelRelease` -/

@[simp] theorem channelRelease_hdr (P : Params) (i : Nat) (s : State) :
    (channelRelease P i s).hdr = s.hdr := by
  unfold channelRelease
  try dsimp only
  repeat' split
  all_goals simp
@[simp] theorem channelRelease_pay (P : Params) (i : Nat) (s : State) :
    (channelRelease P i s).pay = s.pay := by
  unfold channelRelease
  try dsimp only
  repeat' split
  all_goals simp
@[simp] theorem channelRelease_txState (P : Params) (i : Nat) (s : State) :
    (channelRelease P i s).txState = s.txState := by
  unfold channelRelease
  try dsimp only
  repeat' split
  all_goals simp
@[simp] theorem channelRelease_txq (P : Params) (i : Nat) (s : State) :
    (channelRelease P i s).txq = s.txq := by
  unfold channelRelease
  try dsimp only
  repeat' split
  all_goals simp
@[simp] theorem channelRelease_txT0 (P : Params) (i : Nat) (s : State) :
    (channelRelease P i s).txT0 = s.txT0 := by
  unfold channelRelease
  try dsimp only
  repeat' split
  all_goals simp
@[simp] theorem channelRelease_txRetries (P : Params) (i : Nat) (s : State) :
    (channelRelease P i s).txRetries = s.txRetries := by
  unfold channelRelease
  try dsimp only
  repeat' split
  all_goals simp
@[simp] theorem channelRelease_acc (P : Params) (i : Nat) (s : State) :
    (channelRelease P i s).acc = s.acc := by
  unfold channelRelease
  try dsimp only
  repeat' split
  all_goals simp
@[simp] theorem channelRelease_accLen (P : Params) (i : Nat) (s : State) :
    (channelRelease P i s).accLen = s.accLen := by
  unfold channelRelease
  try dsimp only
  repeat' split
  all_goals simp
@[simp] theorem channelRelease_accOvf (P : Params) (i : Nat) (s : State) :
    (channelRelease P i s).accOvf = s.accOvf := by
  unfold channelRelease
  try dsimp only
  repeat' split
  all_goals simp
@[simp] theorem channelRelease_ch (P : Params) (i : Nat) (s : State) :
    (channelRelease P i s).ch = s.ch := by
  unfold channelRelease
  try dsimp only
  repeat' split
  all_goals simp
@[simp] theorem channelRelease_wireRx (P : Params) (i : Nat) (s : State) :
    (channelRelease P i s).wireRx = s.wireRx := by
  unfold channelRelease
  try dsimp only
  repeat' split
  all_goals simp
@[simp] theorem channelRelease_cmd (P : Params) (i : Nat) (s : State) :
    (channelRelease P i s).cmd = s.cmd := by
  unfold channelRelease
  try dsimp only
  repeat' split
  all_goals simp
@[simp] theorem channelRelease_now (P : Params) (i : Nat) (s : State) :
    (channelRelease P i s).now = s.now := by
  unfold channelRelease
  try dsimp only
  repeat' split
  all_goals simp
@[simp] theorem channelRelease_rsp (P : Params) (i : Nat) (s : State) :
    (channelRelease P i s).rsp = s.rsp := by
  unfold channelRelease
  try dsimp only
  repeat' split
  all_goals simp
@[simp] theorem channelRelease_epoch (P : Params) (i : Nat) (s : State) :
    (channelRelease P i s).epoch = s.epoch := by
  unfold channelRelease
  try dsimp only
  repeat' split
  all_goals simp

/-! ### `releaseAll` -/

@[simp] theorem releaseAll_hdr (P : Params) (is : List Nat) (s : State) :
    (releaseAll P is s).hdr = s.hdr := by
  induction is generalizing s with
  | nil => rfl
  | cons i is ih => simp [releaseAll, ih]
@[simp] theorem releaseAll_pay (P : Params) (is : List Nat) (s : State) :
    (releaseAll P is s).pay = s.pay := by
  induction is generalizing s with
  | nil => rfl
  | cons i is ih => simp [releaseAll, ih]
@[simp] theorem releaseAll_txState (P : Params) (is : List Nat) (s : State) :
    (releaseAll P is s).txState = s.txState := by
  induction is generalizing s with
  | nil => rfl
  | cons i is ih => simp [releaseAll, ih]
@[simp] theorem releaseAll_txq (P : Params) (is : List Nat) (s : State) :
    (releaseAll P is s).txq = s.txq := by
  induction is generalizing s with
  | nil => rfl
  | cons i is ih => simp [releaseAll, ih]
@[simp] theorem releaseAll_txT0 (P : Params) (is : List Nat) (s : State) :
    (releaseAll P is s).txT0 = s.txT0 := by
  induction is generalizing s with
  | nil => rfl
  | cons i is ih => simp [releaseAll, ih]
@[simp] theorem releaseAll_txRetries (P : Params) (is : List Nat) (s : State) :
    (releaseAll P is s).txRetries = s.txRetries := by
  induction is generalizing s with
  | nil => rfl
  | cons i is ih => simp [releaseAll, ih]
@[simp] theorem releaseAll_acc (P : Params) (is : List Nat) (s : State) :
    (releaseAll P is s).acc = s.acc := by
  induction is generalizing s with
  | nil => rfl
  | cons i is ih => simp [releaseAll, ih]
@[simp] theorem releaseAll_accLen (P : Params) (is : List Nat) (s : State) :
    (releaseAll P is s).accLen = s.accLen := by
  induction is generalizing s with
  | nil => rfl
  | cons i is ih => simp [releaseAll, ih]
@[simp] theorem releaseAll_accOvf (P : Params) (is : List Nat) (s : State) :
    (releaseAll P is s).accOvf = s.accOvf := by
  induction is generalizing s with
  | nil => rfl
  | cons i is ih => simp [releaseAll, ih]
@[simp] theorem releaseAll_ch (P : Params) (is : List Nat) (s : State) :
    (releaseAll P is s).ch = s.ch := by
  induction is generalizing s with
  | nil => rfl
  | cons i is ih => simp [releaseAll, ih]
@[simp] theorem releaseAll_wireRx (P : Params) (is : List Nat) (s : State) :
    (releaseAll P is s).wireRx = s.wireRx := by
  induction is generalizing s with
  | nil => rfl
  | cons i is ih => simp [releaseAll, ih]
@[simp] theorem releaseAll_cmd (P : Params) (is : List Nat) (s : State) :
    (releaseAll P is s).cmd = s.cmd := by
  induction is generalizing s with
  | nil => rfl
  | cons i is ih => simp [releaseAll, ih]
@[simp] theorem releaseAll_now (P : Params) (is : List Nat) (s : State) :
    (releaseAll P is s).now = s.now := by
  induction is generalizing s with
  | nil => rfl
  | cons i is ih => simp [releaseAll, ih]
@[simp] theorem releaseAll_rsp (P : Params) (is : List Nat) (s : State) :
    (releaseAll P is s).rsp = s.rsp := by
  induction is generalizing s with
  | nil => rfl
  | cons i is ih => simp [releaseAll, ih]
@[simp] theorem releaseAll_epoch (P : Params) (is : List Nat) (s : State) :
    (releaseAll P is s).epoch = s.epoch := by
  induction is generalizing s with
  | nil => rfl
  | cons i is ih => simp [releaseAll, ih]

/-! ### `chanPeerCR` -/

@[simp] theorem chanPeerCR_hdr (c : Nat) (s : State) : (chanPeerCR c s).hdr = s.hdr := by
  unfold chanPeerCR
  try dsimp only
  repeat' split
  all_goals simp
@[simp] theorem chanPeerCR_pay (c : Nat) (s : State) : (chanPeerCR c s).pay = s.pay := by
  unfold chanPeerCR
  try dsimp only
  repeat' split
  all_goals simp
@[simp] theorem chanPeerCR_free (c : Nat) (s : State) : (chanPeerCR c s).free = s.free := by
  unfold chanPeerCR
  try dsimp only
  repeat' split
  all_goals simp
@[simp] theorem chanPeerCR_txState (c : Nat) (s : State) :
    (chanPeerCR c s).txState = s.txState := by
  unfold chanPeerCR
  try dsimp only
  repeat' split
  all_goals simp
@[simp] theorem chanPeerCR_txq (c : Nat) (s : State) : (chanPeerCR c s).txq = s.txq := by
  unfold chanPeerCR
  try dsimp only
  repeat' split
  all_goals simp
@[simp] theorem chanPeerCR_txT0 (c : Nat) (s : State) : (chanPeerCR c s).txT0 = s.txT0 := by
  unfold chanPeerCR
  try dsimp only
  repeat' split
  all_goals simp
@[simp] theorem chanPeerCR_txRetries (c : Nat) (s : State) :
    (chanPeerCR c s).txRetries = s.txRetries := by
  unfold chanPeerCR
  try dsimp only
  repeat' split
  all_goals simp
@[simp] theorem chanPeerCR_rxState (c : Nat) (s : State) :
    (chanPeerCR c s).rxState = s.rxState := by
  unfold chanPeerCR
  try dsimp only
  repeat' split
  all_goals simp
@[simp] theorem chanPeerCR_acc (c : Nat) (s : State) : (chanPeerCR c s).acc = s.acc := by
  unfold chanPeerCR
  try dsimp only
  repeat' split
  all_goals simp
@[simp] theorem chanPeerCR_accLen (c : Nat) (s : State) : (chanPeerCR c s).accLen = s.accLen := by
  unfold chanPeerCR
  try dsimp only
  repeat' split
  all_goals simp
@[simp] theorem chanPeerCR_accOvf (c : Nat) (s : State) : (chanPeerCR c s).accOvf = s.accOvf := by
  unfold chanPeerCR
  try dsimp only
  repeat' split
  all_goals simp
@[simp] theorem chanPeerCR_wireRx (c : Nat) (s : State) : (chanPeerCR c s).wireRx = s.wireRx := by
  unfold chanPeerCR
  try dsimp only
  repeat' split
  all_goals simp
@[simp] theorem chanPeerCR_wireTx (c : Nat) (s : State) : (chanPeerCR c s).wireTx = s.wireTx := by
  unfold chanPeerCR
  try dsimp only
  repeat' split
  all_goals simp
@[simp] theorem chanPeerCR_cmd (c : Nat) (s : State) : (chanPeerCR c s).cmd = s.cmd := by
  unfold chanPeerCR
  try dsimp only
  repeat' split
  all_goals simp
@[simp] theorem chanPeerCR_now (c : Nat) (s : State) : (chanPeerCR c s).now = s.now := by
  unfold chanPeerCR
  try dsimp only
  repeat' split
  all_goals simp
@[simp] theorem chanPeerCR_rsp (c : Nat) (s : State) : (chanPeerCR c s).rsp = s.rsp := by
  unfold chanPeerCR
  try dsimp only
  repeat' split
  all_goals simp
@[simp] theorem chanPeerCR_epoch (c : Nat) (s : State) : (chanPeerCR c s).epoch = s.epoch := by
  unfold chanPeerCR
  try dsimp only
  repeat' split
  all_goals simp

/-! ### `chanPeerDR` -/

@[simp] theorem chanPeerDR_hdr (c : Nat) (s : State) : (chanPeerDR c s).hdr = s.hdr := by
  unfold chanPeerDR
  try dsimp only
  repeat' split
  all_goals simp
@[simp] theorem chanPeerDR_pay (c : Nat) (s : State) : (chanPeerDR c s).pay = s.pay := by
  unfold chanPeerDR
  try dsimp only
  repeat' split
  all_goals simp
@[simp] theorem chanPeerDR_txState (c : Nat) (s : State) :
    (chanPeerDR c s).txState = s.txState := by
  unfold chanPeerDR
  try dsimp only
  repeat' split
  all_goals simp
@[simp] theorem chanPeerDR_txq (c : Nat) (s : State) : (chanPeerDR c s).txq = s.txq := by
  unfold chanPeerDR
  try dsimp only
  repeat' split
  all_goals simp
@[simp] theorem chanPeerDR_txT0 (c : Nat) (s : State) : (chanPeerDR c s).txT0 = s.txT0 := by
  unfold chanPeerDR
  try dsimp only
  repeat' split
  all_goals simp
@[simp] theorem chanPeerDR_txRetries (c : Nat) (s : State) :
    (chanPeerDR c s).txRetries = s.txRetries := by
  unfold chanPeerDR
  try dsimp only
  repeat' split
  all_goals simp
@[simp] theorem chanPeerDR_rxState (c : Nat) (s : State) :
    (chanPeerDR c s).rxState = s.rxState := by
  unfold chanPeerDR
  try dsimp only
  repeat' split
  all_goals simp
@[simp] theorem chanPeerDR_acc (c : Nat) (s : State) : (chanPeerDR c s).acc = s.acc := by
  unfold chanPeerDR
  try dsimp only
  repeat' split
  all_goals simp
@[simp] theorem chanPeerDR_accLen (c : Nat) (s : State) : (chanPeerDR c s).accLen = s.accLen := by
  unfold chanPeerDR
  try dsimp only
  repeat' split
  all_goals simp
@[simp] theorem chanPeerDR_accOvf (c : Nat) (s : State) : (chanPeerDR c s).accOvf = s.accOvf := by
  unfold chanPeerDR
  try dsimp only
  repeat' split
  all_goals simp
@[simp] theorem chanPeerDR_wireRx (c : Nat) (s : State) : (chanPeerDR c s).wireRx = s.wireRx := by
  unfold chanPeerDR
  try dsimp only
  repeat' split
  all_goals simp
@[simp] theorem chanPeerDR_wireTx (c : Nat) (s : State) : (chanPeerDR c s).wireTx = s.wireTx := by
  unfold chanPeerDR
  try dsimp only
  repeat' split
  all_goals simp
@[simp] theorem chanPeerDR_cmd (c : Nat) (s : State) : (chanPeerDR c s).cmd = s.cmd := by
  unfold chanPeerDR
  try dsimp only
  repeat' split
  all_goals simp
@[simp] theorem chanPeerDR_now (c : Nat) (s : State) : (chanPeerDR c s).now = s.now := by
  unfold chanPeerDR
  try dsimp only
  repeat' split
  all_goals simp
@[simp] theorem chanPeerDR_rsp (c : Nat) (s : State) : (chanPeerDR c s).rsp = s.rsp := by
  unfold chanPeerDR
  try dsimp only
  repeat' split
  all_goals simp
@[simp] theorem chanPeerDR_epoch (c : Nat) (s : State) : (chanPeerDR c s).epoch = s.epoch := by
  unfold chanPeerDR
  try dsimp only
  repeat' split
  all_goals simp

/-! ### `deliver` -/

@[simp] theorem deliver_hdr (P : Params) (i : Nat) (s : State) : (deliver P i s).hdr = s.hdr := by
  unfold deliver
  try dsimp only
  repeat' split
  all_goals simp
@[simp] theorem deliver_pay (P : Params) (i : Nat) (s : State) : (deliver P i s).pay = s.pay := by
  unfold deliver
  try dsimp only
  repeat' split
  all_goals simp
@[simp] theorem deliver_txState (P : Params) (i : Nat) (s : State) :
    (deliver P i s).txState = s.txState := by
  unfold deliver
  try dsimp only
  repeat' split
  all_goals simp
@[simp] theorem deliver_txq (P : Params) (i : Nat) (s : State) : (deliver P i s).txq = s.txq := by
  unfold deliver
  try dsimp only
  repeat' split
  all_goals simp
@[simp] theorem deliver_txT0 (P : Params) (i : Nat) (s : State) :
    (deliver P i s).txT0 = s.txT0 := by
  unfold deliver
  try dsimp only
  repeat' split
  all_goals simp
@[simp] theorem deliver_txRetries (P : Params) (i : Nat) (s : State) :
    (deliver P i s).txRetries = s.txRetries := by
  unfold deliver
  try dsimp only
  repeat' split
  all_goals simp
@[simp] theorem deliver_acc (P : Params) (i : Nat) (s : State) : (deliver P i s).acc = s.acc := by
  unfold deliver
  try dsimp only
  repeat' split
  all_goals simp
@[simp] theorem deliver_accLen (P : Params) (i : Nat) (s : State) :
    (deliver P i s).accLen = s.accLen := by
  unfold deliver
  try dsimp only
  repeat' split
  all_goals simp
@[simp] theorem deliver_accOvf (P : Params) (i : Nat) (s : State) :
    (deliver P i s).accOvf = s.accOvf := by
  unfold deliver
  try dsimp only
  repeat' split
  all_goals simp
@[simp] theorem deliver_wireRx (P : Params) (i : Nat) (s : State) :
    (deliver P i s).wireRx = s.wireRx := by
  unfold deliver
  try dsimp only
  repeat' split
  all_goals simp
@[simp] theorem deliver_cmd (P : Params) (i : Nat) (s : State) : (deliver P i s).cmd = s.cmd := by
  unfold deliver
  try dsimp only
  repeat' split
  all_goals simp
@[simp] theorem deliver_now (P : Params) (i : Nat) (s : State) : (deliver P i s).now = s.now := by
  unfold deliver
  try dsimp only
  repeat' split
  all_goals simp
@[simp] theorem deliver_rsp (P : Params) (i : Nat) (s : State) : (deliver P i s).rsp = s.rsp := by
  unfold deliver
  try dsimp only
  repeat' split
  all_goals simp
@[simp] theorem deliver_epoch (P : Params) (i : Nat) (s : State) :
    (deliver P i s).epoch = s.epoch := by
  unfold deliver
  try dsimp only
  repeat' split
  all_goals simp

/-! ### `sequenceDispatch` -/

@[simp] theorem sequenceDispatch_hdr (P : Params) (i : Nat) (m : Bool) (s : State) :
    (sequenceDispatch P i m s).hdr = s.hdr := by
  unfold sequenceDispatch
  try dsimp only
  repeat' split
  all_goals simp
@[simp] theorem sequenceDispatch_pay (P : Params) (i : Nat) (m : Bool) (s : State) :
    (sequenceDispatch P i m s).pay = s.pay := by
  unfold sequenceDispatch
  try dsimp only
  repeat' split
  all_goals simp
@[simp] theorem sequenceDispatch_txT0 (P : Params) (i : Nat) (m : Bool) (s : State) :
    (sequenceDispatch P i m s).txT0 = s.txT0 := by
  unfold sequenceDispatch
  try dsimp only
  repeat' split
  all_goals simp
@[simp] theorem sequenceDispatch_acc (P : Params) (i : Nat) (m : Bool) (s : State) :
    (sequenceDispatch P i m s).acc = s.acc := by
  unfold sequenceDispatch
  try dsimp only
  repeat' split
  all_goals simp
@[simp] theorem sequenceDispatch_wireRx (P : Params) (i : Nat) (m : Bool) (s : State) :
    (sequenceDispatch P i m s).wireRx = s.wireRx := by
  unfold sequenceDispatch
  try dsimp only
  repeat' split
  all_goals simp
@[simp] theorem sequenceDispatch_cmd (P : Params) (i : Nat) (m : Bool) (s : State) :
    (sequenceDispatch P i m s).cmd = s.cmd := by
  unfold sequenceDispatch
  try dsimp only
  repeat' split
  all_goals simp
@[simp] theorem sequenceDispatch_now (P : Params) (i : Nat) (m : Bool) (s : State) :
    (sequenceDispatch P i m s).now = s.now := by
  unfold sequenceDispatch
  try dsimp only
  repeat' split
  all_goals simp
@[simp] theorem sequenceDispatch_rsp (P : Params) (i : Nat) (m : Bool) (s : State) :
    (sequenceDispatch P i m s).rsp = s.rsp := by
  unfold sequenceDispatch
  try dsimp only
  repeat' split
  all_goals simp
@[simp] theorem sequenceDispatch_epoch (P : Params) (i : Nat) (m : Bool) (s : State) :
    (sequenceDispatch P i m s).epoch = s.epoch := by
  unfold sequenceDispatch
  try dsimp only
  repeat' split
  all_goals simp

/-! ### `dispatch` -/

@[simp] theorem dispatch_pay (P : Params) (i : Nat) (s : State) : (dispatch P i s).pay = s.pay := by
  unfold dispatch
  try dsimp only
  repeat' split
  all_goals simp
@[simp] theorem dispatch_acc (P : Params) (i : Nat) (s : State) : (dispatch P i s).acc = s.acc := by
  unfold dispatch
  try dsimp only
  repeat' split
  all_goals simp
@[simp] theorem dispatch_wireRx (P : Params) (i : Nat) (s : State) :
    (dispatch P i s).wireRx = s.wireRx := by
  unfold dispatch
  try dsimp only
  repeat' split
  all_goals simp
@[simp] theorem dispatch_cmd (P : Params) (i : Nat) (s : State) : (dispatch P i s).cmd = s.cmd := by
  unfold dispatch
  try dsimp only
  repeat' split
  all_goals simp
@[simp] theorem dispatch_now (P : Params) (i : Nat) (s : State) : (dispatch P i s).now = s.now := by
  unfold dispatch
  try dsimp only
  repeat' split
  all_goals simp
@[simp] theorem dispatch_rsp (P : Params) (i : Nat) (s : State) : (dispatch P i s).rsp = s.rsp := by
  unfold dispatch
  try dsimp only
  repeat' split
  all_goals simp
@[simp] theorem dispatch_epoch (P : Params) (i : Nat) (s : State) :
    (dispatch P i s).epoch = s.epoch := by
  unfold dispatch
  try dsimp only
  repeat' split
  all_goals simp

/-! ### `storeBytes` -/

@[simp] theorem storeBytes_hdr (P : Params) (i o : Nat) (bs : List Byte) (s : State) :
    (storeBytes P i o bs s).hdr = s.hdr := by
  rw [storeBytes_eq]
@[simp] theorem storeBytes_free (P : Params) (i o : Nat) (bs : List Byte) (s : State) :
    (storeBytes P i o bs s).free = s.free := by
  rw [storeBytes_eq]
@[simp] theorem storeBytes_txState (P : Params) (i o : Nat) (bs : List Byte) (s : State) :
    (storeBytes P i o bs s).txState = s.txState := by
  rw [storeBytes_eq]
@[simp] theorem storeBytes_txq (P : Params) (i o : Nat) (bs : List Byte) (s : State) :
    (storeBytes P i o bs s).txq = s.txq := by
  rw [storeBytes_eq]
@[simp] theorem storeBytes_txT0 (P : Params) (i o : Nat) (bs : List Byte) (s : State) :
    (storeBytes P i o bs s).txT0 = s.txT0 := by
  rw [storeBytes_eq]
@[simp] theorem storeBytes_txRetries (P : Params) (i o : Nat) (bs : List Byte) (s : State) :
    (storeBytes P i o bs s).txRetries = s.txRetries := by
  rw [storeBytes_eq]
@[simp] theorem storeBytes_rxState (P : Params) (i o : Nat) (bs : List Byte) (s : State) :
    (storeBytes P i o bs s).rxState = s.rxState := by
  rw [storeBytes_eq]
@[simp] theorem storeBytes_acc (P : Params) (i o : Nat) (bs : List Byte) (s : State) :
    (storeBytes P i o bs s).acc = s.acc := by
  rw [storeBytes_eq]
@[simp] theorem storeBytes_accLen (P : Params) (i o : Nat) (bs : List Byte) (s : State) :
    (storeBytes P i o bs s).accLen = s.accLen := by
  rw [storeBytes_eq]
@[simp] theorem storeBytes_accOvf (P : Params) (i o : Nat) (bs : List Byte) (s : State) :
    (storeBytes P i o bs s).accOvf = s.accOvf := by
  rw [storeBytes_eq]
@[simp] theorem storeBytes_ch (P : Params) (i o : Nat) (bs : List Byte) (s : State) :
    (storeBytes P i o bs s).ch = s.ch := by
  rw [storeBytes_eq]
@[simp] theorem storeBytes_wireRx (P : Params) (i o : Nat) (bs : List Byte) (s : State) :
    (storeBytes P i o bs s).wireRx = s.wireRx := by
  rw [storeBytes_eq]
@[simp] theorem storeBytes_wireTx (P : Params) (i o : Nat) (bs : List Byte) (s : State) :
    (storeBytes P i o bs s).wireTx = s.wireTx := by
  rw [storeBytes_eq]
@[simp] theorem storeBytes_cmd (P : Params) (i o : Nat) (bs : List Byte) (s : State) :
    (storeBytes P i o bs s).cmd = s.cmd := by
  rw [storeBytes_eq]
@[simp] theorem storeBytes_now (P : Params) (i o : Nat) (bs : List Byte) (s : State) :
    (storeBytes P i o bs s).now = s.now := by
  rw [storeBytes_eq]
@[simp] theorem storeBytes_rsp (P : Params) (i o : Nat) (bs : List Byte) (s : State) :
    (storeBytes P i o bs s).rsp = s.rsp := by
  rw [storeBytes_eq]
@[simp] theorem storeBytes_epoch (P : Params) (i o : Nat) (bs : List Byte) (s : State) :
    (storeBytes P i o bs s).epoch = s.epoch := by
  rw [storeBytes_eq]

/-! ### `storeFrame` -/

@[simp] theorem storeFrame_free (P : Params) (i : Nat) (f : RawFrame) (s : State) :
    (storeFrame P i f s).free = s.free := by
  simp [storeFrame]
@[simp] theorem storeFrame_txState (P : Params) (i : Nat) (f : RawFrame) (s : State) :
    (storeFrame P i f s).txState = s.txState := by
  simp [storeFrame]
@[simp] theorem storeFrame_txq (P : Params) (i : Nat) (f : RawFrame) (s : State) :
    (storeFrame P i f s).txq = s.txq := by
  simp [storeFrame]
@[simp] theorem storeFrame_txT0 (P : Params) (i : Nat) (f : RawFrame) (s : State) :
    (storeFrame P i f s).txT0 = s.txT0 := by
  simp [storeFrame]
@[simp] theorem storeFrame_txRetries (P : Params) (i : Nat) (f : RawFrame) (s : State) :
    (storeFrame P i f s).txRetries = s.txRetries := by
  simp [storeFrame]
@[simp] theorem storeFrame_rxState (P : Params) (i : Nat) (f : RawFrame) (s : State) :
    (storeFrame P i f s).rxState = s.rxState := by
  simp [storeFrame]
@[simp] theorem storeFrame_acc (P : Params) (i : Nat) (f : RawFrame) (s : State) :
    (storeFrame P i f s).acc = s.acc := by
  simp [storeFrame]
@[simp] theorem storeFrame_accLen (P : Params) (i : Nat) (f : RawFrame) (s : State) :
    (storeFrame P i f s).accLen = s.accLen := by
  simp [storeFrame]
@[simp] theorem storeFrame_accOvf (P : Params) (i : Nat) (f : RawFrame) (s : State) :
    (storeFrame P i f s).accOvf = s.accOvf := by
  simp [storeFrame]
@[simp] theorem storeFrame_ch (P : Params) (i : Nat) (f : RawFrame) (s : State) :
    (storeFrame P i f s).ch = s.ch := by
  simp [storeFrame]
@[simp] theorem storeFrame_wireRx (P : Params) (i : Nat) (f : RawFrame) (s : State) :
    (storeFrame P i f s).wireRx = s.wireRx := by
  simp [storeFrame]
@[simp] theorem storeFrame_wireTx (P : Params) (i : Nat) (f : RawFrame) (s : State) :
    (storeFrame P i f s).wireTx = s.wireTx := by
  simp [storeFrame]
@[simp] theorem storeFrame_cmd (P : Params) (i : Nat) (f : RawFrame) (s : State) :
    (storeFrame P i f s).cmd = s.cmd := by
  simp [storeFrame]
@[simp] theorem storeFrame_now (P : Params) (i : Nat) (f : RawFrame) (s : State) :
    (storeFrame P i f s).now = s.now := by
  simp [storeFrame]
@[simp] theorem storeFrame_rsp (P : Params) (i : Nat) (f : RawFrame) (s : State) :
    (storeFrame P i f s).rsp = s.rsp := by
  simp [storeFrame]
@[simp] theorem storeFrame_epoch (P : Params) (i : Nat) (f : RawFrame) (s : State) :
    (storeFrame P i f s).epoch = s.epoch := by
  simp [storeFrame]

/-! ### `receive` -/

@[simp] theorem receive_acc (P : Params) (v : Option RawFrame) (s : State) :
    (receive P v s).acc = s.acc := by
  unfold receive
  split
  · rfl
  · rename_i h
    obtain ⟨rest, -, rfl⟩ := poolAcquire_eq_some.mp h
    split <;> simp
@[simp] theorem receive_wireRx (P : Params) (v : Option RawFrame) (s : State) :
    (receive P v s).wireRx = s.wireRx := by
  unfold receive
  split
  · rfl
  · rename_i h
    obtain ⟨rest, -, rfl⟩ := poolAcquire_eq_some.mp h
    split <;> simp
@[simp] theorem receive_cmd (P : Params) (v : Option RawFrame) (s : State) :
    (receive P v s).cmd = s.cmd := by
  unfold receive
  split
  · rfl
  · rename_i h
    obtain ⟨rest, -, rfl⟩ := poolAcquire_eq_some.mp h
    split <;> simp
@[simp] theorem receive_now (P : Params) (v : Option RawFrame) (s : State) :
    (receive P v s).now = s.now := by
  unfold receive
  split
  · rfl
  · rename_i h
    obtain ⟨rest, -, rfl⟩ := poolAcquire_eq_some.mp h
    split <;> simp
@[simp] theorem receive_rsp (P : Params) (v : Option RawFrame) (s : State) :
    (receive P v s).rsp = s.rsp := by
  unfold receive
  split
  · rfl
  · rename_i h
    obtain ⟨rest, -, rfl⟩ := poolAcquire_eq_some.mp h
    split <;> simp
@[simp] theorem receive_epoch (P : Params) (v : Option RawFrame) (s : State) :
    (receive P v s).epoch = s.epoch := by
  unfold receive
  split
  · rfl
  · rename_i h
    obtain ⟨rest, -, rfl⟩ := poolAcquire_eq_some.mp h
    split <;> simp

/-! ### `rxMessage` -/

@[simp] theorem rxMessage_acc (P : Params) (s : State) : (rxMessage P s).acc = s.acc := by
  simp [rxMessage]
@[simp] theorem rxMessage_wireRx (P : Params) (s : State) : (rxMessage P s).wireRx = s.wireRx := by
  simp [rxMessage]
@[simp] theorem rxMessage_cmd (P : Params) (s : State) : (rxMessage P s).cmd = s.cmd := by
  simp [rxMessage]
@[simp] theorem rxMessage_now (P : Params) (s : State) : (rxMessage P s).now = s.now := by
  simp [rxMessage]
@[simp] theorem rxMessage_rsp (P : Params) (s : State) : (rxMessage P s).rsp = s.rsp := by
  simp [rxMessage]
@[simp] theorem rxMessage_epoch (P : Params) (s : State) : (rxMessage P s).epoch = s.epoch := by
  simp [rxMessage]

/-! ### `receiveFrame` -/

@[simp] theorem receiveFrame_acc (P : Params) (f : RawFrame) (s : State) :
    (receiveFrame P f s).acc = s.acc := by
  simp [receiveFrame]
@[simp] theorem receiveFrame_wireRx (P : Params) (f : RawFrame) (s : State) :
    (receiveFrame P f s).wireRx = s.wireRx := by
  simp [receiveFrame]
@[simp] theorem receiveFrame_cmd (P : Params) (f : RawFrame) (s : State) :
    (receiveFrame P f s).cmd = s.cmd := by
  simp [receiveFrame]
@[simp] theorem receiveFrame_now (P : Params) (f : RawFrame) (s : State) :
    (receiveFrame P f s).now = s.now := by
  simp [receiveFrame]
@[simp] theorem receiveFrame_rsp (P : Params) (f : RawFrame) (s : State) :
    (receiveFrame P f s).rsp = s.rsp := by
  simp [receiveFrame]
@[simp] theorem receiveFrame_epoch (P : Params) (f : RawFrame) (s : State) :
    (receiveFrame P f s).epoch = s.epoch := by
  simp [receiveFrame]

/-! ### `rxByte` -/

@[simp] theorem rxByte_wireRx (P : Params) (b : Byte) (s : State) :
    (rxByte P b s).wireRx = s.wireRx := by
  unfold rxByte
  try dsimp only
  repeat' split
  all_goals simp
@[simp] theorem rxByte_cmd (P : Params) (b : Byte) (s : State) : (rxByte P b s).cmd = s.cmd := by
  unfold rxByte
  try dsimp only
  repeat' split
  all_goals simp
@[simp] theorem rxByte_now (P : Params) (b : Byte) (s : State) : (rxByte P b s).now = s.now := by
  unfold rxByte
  try dsimp only
  repeat' split
  all_goals simp
@[simp] theorem rxByte_rsp (P : Params) (b : Byte) (s : State) : (rxByte P b s).rsp = s.rsp := by
  unfold rxByte
  try dsimp only
  repeat' split
  all_goals simp
@[simp] theorem rxByte_epoch (P : Params) (b : Byte) (s : State) :
    (rxByte P b s).epoch = s.epoch := by
  unfold rxByte
  try dsimp only
  repeat' split
  all_goals simp

/-! ### `rxBytes` -/

@[simp] theorem rxBytes_wireRx (P : Params) (bs : List Byte) (s : State) :
    (rxBytes P bs s).wireRx = s.wireRx := by
  induction bs generalizing s with
  | nil => rfl
  | cons b bs ih => simp [rxBytes, ih]
@[simp] theorem rxBytes_cmd (P : Params) (bs : List Byte) (s : State) :
    (rxBytes P bs s).cmd = s.cmd := by
  induction bs generalizing s with
  | nil => rfl
  | cons b bs ih => simp [rxBytes, ih]
@[simp] theorem rxBytes_now (P : Params) (bs : List Byte) (s : State) :
    (rxBytes P bs s).now = s.now := by
  induction bs generalizing s with
  | nil => rfl
  | cons b bs ih => simp [rxBytes, ih]
@[simp] theorem rxBytes_rsp (P : Params) (bs : List Byte) (s : State) :
    (rxBytes P bs s).rsp = s.rsp := by
  induction bs generalizing s with
  | nil => rfl
  | cons b bs ih => simp [rxBytes, ih]
@[simp] theorem rxBytes_epoch (P : Params) (bs : List Byte) (s : State) :
    (rxBytes P bs s).epoch = s.epoch := by
  induction bs generalizing s with
  | nil => rfl
  | cons b bs ih => simp [rxBytes, ih]

/-! ### `chanTimer` -/

@[simp] theorem chanTimer_hdr (P : Params) (c : Nat) (s : State) :
    (chanTimer P c s).hdr = s.hdr := by
  unfold chanTimer
  try dsimp only
  repeat' split
  all_goals simp
@[simp] theorem chanTimer_pay (P : Params) (c : Nat) (s : State) :
    (chanTimer P c s).pay = s.pay := by
  unfold chanTimer
  try dsimp only
  repeat' split
  all_goals simp
@[simp] theorem chanTimer_free (P : Params) (c : Nat) (s : State) :
    (chanTimer P c s).free = s.free := by
  unfold chanTimer
  try dsimp only
  repeat' split
  all_goals simp
@[simp] theorem chanTimer_txState (P : Params) (c : Nat) (s : State) :
    (chanTimer P c s).txState = s.txState := by
  unfold chanTimer
  try dsimp only
  repeat' split
  all_goals simp
@[simp] theorem chanTimer_txq (P : Params) (c : Nat) (s : State) :
    (chanTimer P c s).txq = s.txq := by
  unfold chanTimer
  try dsimp only
  repeat' split
  all_goals simp
@[simp] theorem chanTimer_txT0 (P : Params) (c : Nat) (s : State) :
    (chanTimer P c s).txT0 = s.txT0 := by
  unfold chanTimer
  try dsimp only
  repeat' split
  all_goals simp
@[simp] theorem chanTimer_txRetries (P : Params) (c : Nat) (s : State) :
    (chanTimer P c s).txRetries = s.txRetries := by
  unfold chanTimer
  try dsimp only
  repeat' split
  all_goals simp
@[simp] theorem chanTimer_rxState (P : Params) (c : Nat) (s : State) :
    (chanTimer P c s).rxState = s.rxState := by
  unfold chanTimer
  try dsimp only
  repeat' split
  all_goals simp
@[simp] theorem chanTimer_acc (P : Params) (c : Nat) (s : State) :
    (chanTimer P c s).acc = s.acc := by
  unfold chanTimer
  try dsimp only
  repeat' split
  all_goals simp
@[simp] theorem chanTimer_accLen (P : Params) (c : Nat) (s : State) :
    (chanTimer P c s).accLen = s.accLen := by
  unfold chanTimer
  try dsimp only
  repeat' split
  all_goals simp
@[simp] theorem chanTimer_accOvf (P : Params) (c : Nat) (s : State) :
    (chanTimer P c s).accOvf = s.accOvf := by
  unfold chanTimer
  try dsimp only
  repeat' split
  all_goals simp
@[simp] theorem chanTimer_wireRx (P : Params) (c : Nat) (s : State) :
    (chanTimer P c s).wireRx = s.wireRx := by
  unfold chanTimer
  try dsimp only
  repeat' split
  all_goals simp
@[simp] theorem chanTimer_wireTx (P : Params) (c : Nat) (s : State) :
    (chanTimer P c s).wireTx = s.wireTx := by
  unfold chanTimer
  try dsimp only
  repeat' split
  all_goals simp
@[simp] theorem chanTimer_cmd (P : Params) (c : Nat) (s : State) :
    (chanTimer P c s).cmd = s.cmd := by
  unfold chanTimer
  try dsimp only
  repeat' split
  all_goals simp
@[simp] theorem chanTimer_now (P : Params) (c : Nat) (s : State) :
    (chanTimer P c s).now = s.now := by
  unfold chanTimer
  try dsimp only
  repeat' split
  all_goals simp
@[simp] theorem chanTimer_rsp (P : Params) (c : Nat) (s : State) :
    (chanTimer P c s).rsp = s.rsp := by
  unfold chanTimer
  try dsimp only
  repeat' split
  all_goals simp
@[simp] theorem chanTimer_epoch (P : Params) (c : Nat) (s : State) :
    (chanTimer P c s).epoch = s.epoch := by
  unfold chanTimer
  try dsimp only
  repeat' split
  all_goals simp

/-! ### `chanTimers` -/

@[simp] theorem chanTimers_hdr (P : Params) (cs : List Nat) (s : State) :
    (chanTimers P cs s).hdr = s.hdr := by
  induction cs generalizing s with
  | nil => rfl
  | cons c cs ih => simp [chanTimers, ih]
@[simp] theorem chanTimers_pay (P : Params) (cs : List Nat) (s : State) :
    (chanTimers P cs s).pay = s.pay := by
  induction cs generalizing s with
  | nil => rfl
  | cons c cs ih => simp [chanTimers, ih]
@[simp] theorem chanTimers_free (P : Params) (cs : List Nat) (s : State) :
    (chanTimers P cs s).free = s.free := by
  induction cs generalizing s with
  | nil => rfl
  | cons c cs ih => simp [chanTimers, ih]
@[simp] theorem chanTimers_txState (P : Params) (cs : List Nat) (s : State) :
    (chanTimers P cs s).txState = s.txState := by
  induction cs generalizing s with
  | nil => rfl
  | cons c cs ih => simp [chanTimers, ih]
@[simp] theorem chanTimers_txq (P : Params) (cs : List Nat) (s : State) :
    (chanTimers P cs s).txq = s.txq := by
  induction cs generalizing s with
  | nil => rfl
  | cons c cs ih => simp [chanTimers, ih]
@[simp] theorem chanTimers_txT0 (P : Params) (cs : List Nat) (s : State) :
    (chanTimers P cs s).txT0 = s.txT0 := by
  induction cs generalizing s with
  | nil => rfl
  | cons c cs ih => simp [chanTimers, ih]
@[simp] theorem chanTimers_txRetries (P : Params) (cs : List Nat) (s : State) :
    (chanTimers P cs s).txRetries = s.txRetries := by
  induction cs generalizing s with
  | nil => rfl
  | cons c cs ih => simp [chanTimers, ih]
@[simp] theorem chanTimers_rxState (P : Params) (cs : List Nat) (s : State) :
    (chanTimers P cs s).rxState = s.rxState := by
  induction cs generalizing s with
  | nil => rfl
  | cons c cs ih => simp [chanTimers, ih]
@[simp] theorem chanTimers_acc (P : Params) (cs : List Nat) (s : State) :
    (chanTimers P cs s).acc = s.acc := by
  induction cs generalizing s with
  | nil => rfl
  | cons c cs ih => simp [chanTimers, ih]
@[simp] theorem chanTimers_accLen (P : Params) (cs : List Nat) (s : State) :
    (chanTimers P cs s).accLen = s.accLen := by
  induction cs generalizing s with
  | nil => rfl
  | cons c cs ih => simp [chanTimers, ih]
@[simp] theorem chanTimers_accOvf (P : Params) (cs : List Nat) (s : State) :
    (chanTimers P cs s).accOvf = s.accOvf := by
  induction cs generalizing s with
  | nil => rfl
  | cons c cs ih => simp [chanTimers, ih]
@[simp] theorem chanTimers_wireRx (P : Params) (cs : List Nat) (s : State) :
    (chanTimers P cs s).wireRx = s.wireRx := by
  induction cs generalizing s with
  | nil => rfl
  | cons c cs ih => simp [chanTimers, ih]
@[simp] theorem chanTimers_wireTx (P : Params) (cs : List Nat) (s : State) :
    (chanTimers P cs s).wireTx = s.wireTx := by
  induction cs generalizing s with
  | nil => rfl
  | cons c cs ih => simp [chanTimers, ih]
@[simp] theorem chanTimers_cmd (P : Params) (cs : List Nat) (s : State) :
    (chanTimers P cs s).cmd = s.cmd := by
  induction cs generalizing s with
  | nil => rfl
  | cons c cs ih => simp [chanTimers, ih]
@[simp] theorem chanTimers_now (P : Params) (cs : List Nat) (s : State) :
    (chanTimers P cs s).now = s.now := by
  induction cs generalizing s with
  | nil => rfl
  | cons c cs ih => simp [chanTimers, ih]
@[simp] theorem chanTimers_rsp (P : Params) (cs : List Nat) (s : State) :
    (chanTimers P cs s).rsp = s.rsp := by
  induction cs generalizing s with
  | nil => rfl
  | cons c cs ih => simp [chanTimers, ih]
@[simp] theorem chanTimers_epoch (P : Params) (cs : List Nat) (s : State) :
    (chanTimers P cs s).epoch = s.epoch := by
  induction cs generalizing s with
  | nil => rfl
  | cons c cs ih => simp [chanTimers, ih]

end Sys2Proof.Machine
end

