-- ==== Sys2Proof/Laws/PerInstr.lean ====
section
/-!
SUPPORT. The family `TableRow`, one lemma per constructor of `Instr`: the bits of an encoded well-formed
instruction agree with its row of spec/opcode_table.json, under the row's mask.
-/

namespace Sys2Proof.Laws.TableRow

/-- The number the opcode table gives an encoded instruction: the command word, or the header number
`HDR` of a raw frame (rules R91, R103). -/
def tableBits : Code → Nat
  | .command w => w.toNat
  | .frame (chan :: ctype :: atype :: _) => (chan ++ ctype ++ atype : BitVec 24).toNat
  | .frame _ => 0

/-- The mask and the match of an instruction's row. -/
def row : Instr → Nat × Nat
  | .nop => (0xFF000000, 0x00000000)
  | .poll => (0xFF000000, 0x01000000)
  | .openChan _ => (0xFF000000, 0x02000000)
  | .closeChan _ => (0xFF000000, 0x03000000)
  | .connect _ _ => (0xFF000000, 0x04000000)
  | .disconnect _ => (0xFF000000, 0x05000000)
  | .write _ _ => (0xFF000000, 0x06000000)
  | .flush _ => (0xFF000000, 0x07000000)
  | .read _ => (0xFF000000, 0x08000000)
  | .peek _ => (0xFF000000, 0x09000000)
  | .avail _ => (0xFF000000, 0x0A000000)
  | .status _ => (0xFF000000, 0x0B000000)
  | .linkstat => (0xFF000000, 0x0C000000)
  | .reserved0D => (0xFF000000, 0x0D000000)
  | .reserved0E0F _ => (0xFE000000, 0x0E000000)
  | .reserved101F _ => (0xF0000000, 0x10000000)
  | .reserved203F _ => (0xE0000000, 0x20000000)
  | .reserved407F _ => (0xC0000000, 0x40000000)
  | .reserved80FF _ => (0x80000000, 0x80000000)
  | .frameReservedC2 _ _ _ _ => (0x000400, 0x000400)
  | .frameReservedC3 _ _ _ _ => (0x000800, 0x000800)
  | .frameReservedC4 _ _ _ _ => (0x001000, 0x001000)
  | .frameReservedC5 _ _ _ _ => (0x002000, 0x002000)
  | .frameReservedC6 _ _ _ _ => (0x004000, 0x004000)
  | .frameReservedC7 _ _ _ _ => (0x008000, 0x008000)
  | .frameReservedA2 _ _ _ _ => (0x000004, 0x000004)
  | .frameReservedA3 _ _ _ _ => (0x000008, 0x000008)
  | .frameReservedA4 _ _ _ _ => (0x000010, 0x000010)
  | .frameReservedA5 _ _ _ _ => (0x000020, 0x000020)
  | .frameReservedA6 _ _ _ _ => (0x000040, 0x000040)
  | .frameReservedA7 _ _ _ _ => (0x000080, 0x000080)
  | .frameReset _ _ _ => (0x00FFFC, 0x000300)
  | .ack0 _ _ _ => (0x0000FF, 0x000001)
  | .ack1 _ _ _ => (0x0000FF, 0x000003)
  | .data0Noop _ _ => (0x00FFFF, 0x000000)
  | .data1Noop _ _ => (0x00FFFF, 0x000002)
  | .data0Connreq _ _ => (0x00FFFF, 0x000100)
  | .data1Connreq _ _ => (0x00FFFF, 0x000102)
  | .data0Discreq _ _ => (0x00FFFF, 0x000200)
  | .data1Discreq _ _ => (0x00FFFF, 0x000202)

/-- What the family states of an instruction. -/
def Statement (i : Instr) : Prop :=
  i.wellFormed Config.params = true →
    tableBits (encode Config.params i) &&& (row i).1 = (row i).2

theorem commandWord_and (op m ch : Byte) (arg : BitVec 16) :
    (commandWord op ch arg).toNat &&& (commandWord m 0 0).toNat =
      (commandWord (op &&& m) 0 0).toNat := by
  rw [← BitVec.toNat_and]
  congr 1
  apply BitVec.eq_of_getLsbD_eq
  intro j _
  simp only [BitVec.getLsbD_and, getLsbD_commandWord]
  split
  · simp
  · split <;> simp

theorem header_and (a b c m n k : Byte) :
    (a ++ b ++ c : BitVec 24).toNat &&& (m ++ n ++ k : BitVec 24).toNat =
      ((a &&& m) ++ (b &&& n) ++ (c &&& k) : BitVec 24).toNat := by
  rw [← BitVec.toNat_and]
  congr 1
  apply BitVec.eq_of_getLsbD_eq
  intro j _
  simp only [BitVec.getLsbD_and, BitVec.getLsbD_append]
  split
  · rfl
  · split <;> rfl

theorem command_statement {op m : Byte} {mask mtch : Nat} (ch : Byte) (arg : BitVec 16)
    (hm : mask = (commandWord m 0 0).toNat) (hc : mtch = (commandWord (op &&& m) 0 0).toNat) :
    tableBits (.command (commandWord op ch arg)) &&& mask = mtch := by
  rw [hm, hc]
  exact commandWord_and op m ch arg

theorem frame_statement {chan ct aty n k vn vk : Byte} {mask mtch : Nat} (pay : List Byte)
    (hm : mask = (0#8 ++ n ++ k : BitVec 24).toNat) (hc : mtch = (0#8 ++ vn ++ vk : BitVec 24).toNat)
    (hn : ct &&& n = vn) (hk : aty &&& k = vk) :
    tableBits (.frame (rawFrame Config.params ⟨chan, ct, aty, pay⟩)) &&& mask = mtch := by
  rw [hm, hc, ← hn, ← hk]
  have h := header_and chan ct aty 0#8 n k
  rw [BitVec.and_zero] at h
  exact h

theorem bit_mask : ∀ k : Nat, 2 ≤ k → k < 8 → ∀ b : Byte, b.getLsbD k = true →
    b &&& BitVec.ofNat 8 (2 ^ k) = BitVec.ofNat 8 (2 ^ k) := by decide +kernel

theorem bit_mask_of_first {k : Nat} (h2 : 2 ≤ k) (h8 : k < 8) {b : Byte}
    (h : firstReservedBit k b = true) : b &&& BitVec.ofNat 8 (2 ^ k) = BitVec.ofNat 8 (2 ^ k) := by
  apply bit_mask k h2 h8
  simp only [firstReservedBit, Bool.and_eq_true] at h
  exact h.1

theorem nop : Statement .nop := by
  intro _
  show tableBits _ &&& 0xFF000000 = 0x00000000
  exact command_statement (m := 0xFF) _ _ (by decide) (by decide)

theorem poll : Statement .poll := by
  intro _
  show tableBits _ &&& 0xFF000000 = 0x01000000
  exact command_statement (m := 0xFF) _ _ (by decide) (by decide)

theorem openChan (ch : Byte) : Statement (.openChan ch) := by
  intro _
  show tableBits _ &&& 0xFF000000 = 0x02000000
  exact command_statement (m := 0xFF) _ _ (by decide) (by decide)

theorem closeChan (ch : Byte) : Statement (.closeChan ch) := by
  intro _
  show tableBits _ &&& 0xFF000000 = 0x03000000
  exact command_statement (m := 0xFF) _ _ (by decide) (by decide)

theorem connect (ch : Byte) (seconds : BitVec 16) : Statement (.connect ch seconds) := by
  intro _
  show tableBits _ &&& 0xFF000000 = 0x04000000
  exact command_statement (m := 0xFF) _ _ (by decide) (by decide)

theorem disconnect (ch : Byte) : Statement (.disconnect ch) := by
  intro _
  show tableBits _ &&& 0xFF000000 = 0x05000000
  exact command_statement (m := 0xFF) _ _ (by decide) (by decide)

theorem write (ch : Byte) (v : Byte) : Statement (.write ch v) := by
  intro _
  show tableBits _ &&& 0xFF000000 = 0x06000000
  exact command_statement (m := 0xFF) _ _ (by decide) (by decide)

theorem flush (ch : Byte) : Statement (.flush ch) := by
  intro _
  show tableBits _ &&& 0xFF000000 = 0x07000000
  exact command_statement (m := 0xFF) _ _ (by decide) (by decide)

theorem read (ch : Byte) : Statement (.read ch) := by
  intro _
  show tableBits _ &&& 0xFF000000 = 0x08000000
  exact command_statement (m := 0xFF) _ _ (by decide) (by decide)

theorem peek (ch : Byte) : Statement (.peek ch) := by
  intro _
  show tableBits _ &&& 0xFF000000 = 0x09000000
  exact command_statement (m := 0xFF) _ _ (by decide) (by decide)

theorem avail (ch : Byte) : Statement (.avail ch) := by
  intro _
  show tableBits _ &&& 0xFF000000 = 0x0A000000
  exact command_statement (m := 0xFF) _ _ (by decide) (by decide)

theorem status (ch : Byte) : Statement (.status ch) := by
  intro _
  show tableBits _ &&& 0xFF000000 = 0x0B000000
  exact command_statement (m := 0xFF) _ _ (by decide) (by decide)

theorem linkstat : Statement .linkstat := by
  intro _
  show tableBits _ &&& 0xFF000000 = 0x0C000000
  exact command_statement (m := 0xFF) _ _ (by decide) (by decide)

theorem reserved0D : Statement .reserved0D := by
  intro _
  show tableBits _ &&& 0xFF000000 = 0x0D000000
  exact command_statement (m := 0xFF) _ _ (by decide) (by decide)

theorem reserved0E0F (lo : BitVec 1) : Statement (.reserved0E0F lo) := by
  intro _
  have h : ∀ lo : BitVec 1, 0x0E000000 =
      (commandWord ((0x07#7 ++ lo : BitVec 8) &&& 0xFE) 0 0).toNat := by
    decide +kernel
  show tableBits _ &&& 0xFE000000 = 0x0E000000
  exact command_statement (m := 0xFE) 0 0 (by decide) (h lo)

theorem reserved101F (lo : BitVec 4) : Statement (.reserved101F lo) := by
  intro _
  have h : ∀ lo : BitVec 4, 0x10000000 =
      (commandWord ((0x1#4 ++ lo : BitVec 8) &&& 0xF0) 0 0).toNat := by
    decide +kernel
  show tableBits _ &&& 0xF0000000 = 0x10000000
  exact command_statement (m := 0xF0) 0 0 (by decide) (h lo)

theorem reserved203F (lo : BitVec 5) : Statement (.reserved203F lo) := by
  intro _
  have h : ∀ lo : BitVec 5, 0x20000000 =
      (commandWord ((0x1#3 ++ lo : BitVec 8) &&& 0xE0) 0 0).toNat := by
    decide +kernel
  show tableBits _ &&& 0xE0000000 = 0x20000000
  exact command_statement (m := 0xE0) 0 0 (by decide) (h lo)

theorem reserved407F (lo : BitVec 6) : Statement (.reserved407F lo) := by
  intro _
  have h : ∀ lo : BitVec 6, 0x40000000 =
      (commandWord ((0x1#2 ++ lo : BitVec 8) &&& 0xC0) 0 0).toNat := by
    decide +kernel
  show tableBits _ &&& 0xC0000000 = 0x40000000
  exact command_statement (m := 0xC0) 0 0 (by decide) (h lo)

theorem reserved80FF (lo : BitVec 7) : Statement (.reserved80FF lo) := by
  intro _
  have h : ∀ lo : BitVec 7, 0x80000000 =
      (commandWord ((0x1#1 ++ lo : BitVec 8) &&& 0x80) 0 0).toNat := by
    decide +kernel
  show tableBits _ &&& 0x80000000 = 0x80000000
  exact command_statement (m := 0x80) 0 0 (by decide) (h lo)

theorem frameReservedC2 (chan ctype atype : Byte) (pay : List Byte) :
    Statement (.frameReservedC2 chan ctype atype pay) := by
  intro h
  simp only [Instr.wellFormed, Bool.and_eq_true] at h
  show tableBits _ &&& 0x000400 = 0x000400
  exact frame_statement (n := 4) (k := 0) (vn := 4) (vk := 0) pay (by decide) (by decide)
    (bit_mask_of_first (k := 2) (by decide) (by decide) h.2) (by simp)

theorem frameReservedC3 (chan ctype atype : Byte) (pay : List Byte) :
    Statement (.frameReservedC3 chan ctype atype pay) := by
  intro h
  simp only [Instr.wellFormed, Bool.and_eq_true] at h
  show tableBits _ &&& 0x000800 = 0x000800
  exact frame_statement (n := 8) (k := 0) (vn := 8) (vk := 0) pay (by decide) (by decide)
    (bit_mask_of_first (k := 3) (by decide) (by decide) h.2) (by simp)

theorem frameReservedC4 (chan ctype atype : Byte) (pay : List Byte) :
    Statement (.frameReservedC4 chan ctype atype pay) := by
  intro h
  simp only [Instr.wellFormed, Bool.and_eq_true] at h
  show tableBits _ &&& 0x001000 = 0x001000
  exact frame_statement (n := 16) (k := 0) (vn := 16) (vk := 0) pay (by decide) (by decide)
    (bit_mask_of_first (k := 4) (by decide) (by decide) h.2) (by simp)

theorem frameReservedC5 (chan ctype atype : Byte) (pay : List Byte) :
    Statement (.frameReservedC5 chan ctype atype pay) := by
  intro h
  simp only [Instr.wellFormed, Bool.and_eq_true] at h
  show tableBits _ &&& 0x002000 = 0x002000
  exact frame_statement (n := 32) (k := 0) (vn := 32) (vk := 0) pay (by decide) (by decide)
    (bit_mask_of_first (k := 5) (by decide) (by decide) h.2) (by simp)

theorem frameReservedC6 (chan ctype atype : Byte) (pay : List Byte) :
    Statement (.frameReservedC6 chan ctype atype pay) := by
  intro h
  simp only [Instr.wellFormed, Bool.and_eq_true] at h
  show tableBits _ &&& 0x004000 = 0x004000
  exact frame_statement (n := 64) (k := 0) (vn := 64) (vk := 0) pay (by decide) (by decide)
    (bit_mask_of_first (k := 6) (by decide) (by decide) h.2) (by simp)

theorem frameReservedC7 (chan ctype atype : Byte) (pay : List Byte) :
    Statement (.frameReservedC7 chan ctype atype pay) := by
  intro h
  simp only [Instr.wellFormed, Bool.and_eq_true] at h
  show tableBits _ &&& 0x008000 = 0x008000
  exact frame_statement (n := 128) (k := 0) (vn := 128) (vk := 0) pay (by decide) (by decide)
    (bit_mask_of_first (k := 7) (by decide) (by decide) h.2) (by simp)

theorem frameReservedA2 (chan ctype atype : Byte) (pay : List Byte) :
    Statement (.frameReservedA2 chan ctype atype pay) := by
  intro h
  simp only [Instr.wellFormed, Bool.and_eq_true] at h
  show tableBits _ &&& 0x000004 = 0x000004
  exact frame_statement (n := 0) (k := 4) (vn := 0) (vk := 4) pay (by decide) (by decide)
    (by simp) (bit_mask_of_first (k := 2) (by decide) (by decide) h.2.2)

theorem frameReservedA3 (chan ctype atype : Byte) (pay : List Byte) :
    Statement (.frameReservedA3 chan ctype atype pay) := by
  intro h
  simp only [Instr.wellFormed, Bool.and_eq_true] at h
  show tableBits _ &&& 0x000008 = 0x000008
  exact frame_statement (n := 0) (k := 8) (vn := 0) (vk := 8) pay (by decide) (by decide)
    (by simp) (bit_mask_of_first (k := 3) (by decide) (by decide) h.2.2)

theorem frameReservedA4 (chan ctype atype : Byte) (pay : List Byte) :
    Statement (.frameReservedA4 chan ctype atype pay) := by
  intro h
  simp only [Instr.wellFormed, Bool.and_eq_true] at h
  show tableBits _ &&& 0x000010 = 0x000010
  exact frame_statement (n := 0) (k := 16) (vn := 0) (vk := 16) pay (by decide) (by decide)
    (by simp) (bit_mask_of_first (k := 4) (by decide) (by decide) h.2.2)

theorem frameReservedA5 (chan ctype atype : Byte) (pay : List Byte) :
    Statement (.frameReservedA5 chan ctype atype pay) := by
  intro h
  simp only [Instr.wellFormed, Bool.and_eq_true] at h
  show tableBits _ &&& 0x000020 = 0x000020
  exact frame_statement (n := 0) (k := 32) (vn := 0) (vk := 32) pay (by decide) (by decide)
    (by simp) (bit_mask_of_first (k := 5) (by decide) (by decide) h.2.2)

theorem frameReservedA6 (chan ctype atype : Byte) (pay : List Byte) :
    Statement (.frameReservedA6 chan ctype atype pay) := by
  intro h
  simp only [Instr.wellFormed, Bool.and_eq_true] at h
  show tableBits _ &&& 0x000040 = 0x000040
  exact frame_statement (n := 0) (k := 64) (vn := 0) (vk := 64) pay (by decide) (by decide)
    (by simp) (bit_mask_of_first (k := 6) (by decide) (by decide) h.2.2)

theorem frameReservedA7 (chan ctype atype : Byte) (pay : List Byte) :
    Statement (.frameReservedA7 chan ctype atype pay) := by
  intro h
  simp only [Instr.wellFormed, Bool.and_eq_true] at h
  show tableBits _ &&& 0x000080 = 0x000080
  exact frame_statement (n := 0) (k := 128) (vn := 0) (vk := 128) pay (by decide) (by decide)
    (by simp) (bit_mask_of_first (k := 7) (by decide) (by decide) h.2.2)

theorem frameReset (chan : Byte) (atype : AType) (pay : List Byte) :
    Statement (.frameReset chan atype pay) := by
  intro _
  show tableBits _ &&& 0x00FFFC = 0x000300
  refine frame_statement (n := 0xFF) (k := 0xFC) (vn := 3) (vk := 0) pay (by decide) (by decide)
    (by decide) ?_
  cases atype with
  | data n => cases n <;> decide
  | ack n => cases n <;> decide

theorem ack0 (chan : Byte) (ctype : CType) (pay : List Byte) :
    Statement (.ack0 chan ctype pay) := by
  intro _
  show tableBits _ &&& 0x0000FF = 0x000001
  exact frame_statement (n := 0) (k := 0xFF) (vn := 0) (vk := 1) pay (by decide) (by decide) (by simp)
    (by decide)

theorem ack1 (chan : Byte) (ctype : CType) (pay : List Byte) :
    Statement (.ack1 chan ctype pay) := by
  intro _
  show tableBits _ &&& 0x0000FF = 0x000003
  exact frame_statement (n := 0) (k := 0xFF) (vn := 0) (vk := 3) pay (by decide) (by decide) (by simp)
    (by decide)

theorem data0Noop (chan : Byte) (pay : List Byte) : Statement (.data0Noop chan pay) := by
  intro _
  show tableBits _ &&& 0x00FFFF = 0x000000
  exact frame_statement (n := 0xFF) (k := 0xFF) (vn := 0) (vk := 0) pay (by decide) (by decide)
    (by decide) (by decide)

theorem data1Noop (chan : Byte) (pay : List Byte) : Statement (.data1Noop chan pay) := by
  intro _
  show tableBits _ &&& 0x00FFFF = 0x000002
  exact frame_statement (n := 0xFF) (k := 0xFF) (vn := 0) (vk := 2) pay (by decide) (by decide)
    (by decide) (by decide)

theorem data0Connreq (chan : Byte) (pay : List Byte) : Statement (.data0Connreq chan pay) := by
  intro _
  show tableBits _ &&& 0x00FFFF = 0x000100
  exact frame_statement (n := 0xFF) (k := 0xFF) (vn := 1) (vk := 0) pay (by decide) (by decide)
    (by decide) (by decide)

theorem data1Connreq (chan : Byte) (pay : List Byte) : Statement (.data1Connreq chan pay) := by
  intro _
  show tableBits _ &&& 0x00FFFF = 0x000102
  exact frame_statement (n := 0xFF) (k := 0xFF) (vn := 1) (vk := 2) pay (by decide) (by decide)
    (by decide) (by decide)

theorem data0Discreq (chan : Byte) (pay : List Byte) : Statement (.data0Discreq chan pay) := by
  intro _
  show tableBits _ &&& 0x00FFFF = 0x000200
  exact frame_statement (n := 0xFF) (k := 0xFF) (vn := 2) (vk := 0) pay (by decide) (by decide)
    (by decide) (by decide)

theorem data1Discreq (chan : Byte) (pay : List Byte) : Statement (.data1Discreq chan pay) := by
  intro _
  show tableBits _ &&& 0x00FFFF = 0x000202
  exact frame_statement (n := 0xFF) (k := 0xFF) (vn := 2) (vk := 2) pay (by decide) (by decide)
    (by decide) (by decide)

end Sys2Proof.Laws.TableRow
end

