-- ==== Sys2Proof/Laws/Receive.lean ====
section
/-!
SUPPORT. What a received frame comes to: the stored frame, then one of the branches of rule R163, each with
what it reads already resolved.
-/

namespace Sys2Proof.Machine

/-- The state in which a frame is dispatched: its slot is taken, the accumulator is cleared, the frame is
in the slot (rule R161). -/
def stored (P : Params) (j : Nat) (rest : List Nat) (f : RawFrame) (s : State) : State :=
  storeFrame P j f { s with free := rest, accLen := 0, accOvf := false }

/-- Storing a frame writes the headers and the payload memory, and nothing else. -/
theorem stored_eq (P : Params) (j : Nat) (rest : List Nat) (f : RawFrame) (s : State) :
    stored P j rest f s =
      { s with
        hdr := (stored P j rest f s).hdr
        pay := (stored P j rest f s).pay
        free := rest
        accLen := 0
        accOvf := false } := by
  unfold stored storeFrame
  rw [storeBytes_eq]
  rfl

theorem slotOf_stored_self {P : Params} {j : Nat} {rest : List Nat} {s : State} (f : RawFrame)
    (hj : j < s.hdr.length) :
    slotOf j (stored P j rest f s) =
      { chan := f.chan, ctype := CType.ofByte f.ctype, atype := AType.ofByte f.atype,
        len := f.pay.length } :=
  slotOf_storeFrame_self f hj

theorem slotOf_stored_ne {P : Params} {j k : Nat} {rest : List Nat} {s : State} (f : RawFrame)
    (hk : k ≠ j) : slotOf k (stored P j rest f s) = slotOf k s :=
  slotOf_storeFrame_ne f (Ne.symm hk)

/-- The frame condition of a stored frame (rule R61). -/
theorem storedIn_stored (P : Params) (j : Nat) (rest : List Nat) (f : RawFrame) (s : State)
    (h : f.pay.length ≤ P.maxpay) : StoredIn P j f.pay.length s (stored P j rest f s) := by
  have hm := P.maxpay_le
  refine ⟨?_, fun k hk => slotOf_stored_ne f hk, ?_⟩
  · unfold stored storeFrame
    rw [storeBytes_eq]
    simp
  · intro k o ho hne
    unfold stored storeFrame
    rw [memRead_storeBytes P j k o ho f.pay 0 _ (by omega), if_neg (by omega)]
    rfl

/-- What is stored reads back (rule R161). -/
theorem payload_stored (P : Params) (j : Nat) (rest : List Nat) (f : RawFrame) (s : State)
    (h : f.pay.length ≤ P.maxpay) :
    payload P j f.pay.length (stored P j rest f s) = f.pay :=
  payload_storeBytes P j f.pay _ (by have := P.maxpay_le; omega)

/-- A payload that holds none of the stored bytes reads as before. -/
theorem payload_stored_ne (P : Params) {j k n : Nat} (rest : List Nat) (f : RawFrame) (s : State)
    (h : f.pay.length ≤ P.maxpay) (hk : k ≠ j) (hn : n ≤ 256) :
    payload P k n (stored P j rest f s) = payload P k n s := by
  apply List.map_congr_left
  intro o ho
  have := List.mem_range.mp ho
  exact (storedIn_stored P j rest f s h).2.2 k o (by omega) (by omega)

/-- A frame with legal tags, received with a free slot, is stored and dispatched (rule R161). -/
theorem receiveFrame_of_cons {P : Params} {s : State} {j : Nat} {rest : List Nat} (chan : Byte)
    (ct : CType) (aty : AType) (pay : List Byte) (hf : s.free = j :: rest) :
    receiveFrame P ⟨chan, ct.byte, aty.byte, pay⟩ s =
      dispatch P j (stored P j rest ⟨chan, ct.byte, aty.byte, pay⟩ s) := by
  simp only [receiveFrame, acceptTags, tagsValid, reservedClear_ctype, reservedClear_atype,
    Bool.and_self, if_true, receive, poolAcquire, hf]
  rfl

variable {P : Params} {s : State} {j : Nat} {rest : List Nat} {chan : Byte} {pay : List Byte}

/-- Rule R163 step 1. -/
theorem receiveFrame_reset (aty : AType) (hf : s.free = j :: rest) (hj : j < s.hdr.length) :
    receiveFrame P ⟨chan, CType.reset.byte, aty.byte, pay⟩ s =
      linkReset P .peerReset (stored P j rest ⟨chan, CType.reset.byte, aty.byte, pay⟩ s) := by
  rw [receiveFrame_of_cons _ _ _ _ hf, dispatch, slotOf_stored_self _ hj]
  simp only [CType.ofByte_byte, if_true]
  rfl

/-- Rule R163 step 2. -/
theorem receiveFrame_ack {ct : CType} (m : Bool) (hct : ct ≠ .reset) (hf : s.free = j :: rest)
    (hj : j < s.hdr.length) :
    receiveFrame P ⟨chan, ct.byte, (AType.ack m).byte, pay⟩ s =
      txAck P m (poolRelease j (stored P j rest ⟨chan, ct.byte, (AType.ack m).byte, pay⟩ s)) := by
  rw [receiveFrame_of_cons _ _ _ _ hf, dispatch, slotOf_stored_self _ hj]
  simp only [CType.ofByte_byte, AType.ofByte_byte, hct, if_false]

/-- Rule R163 step 3. -/
theorem receiveFrame_unresolved {ct : CType} (m : Bool) (hct : ct ≠ .reset)
    (hf : s.free = j :: rest) (hj : j < s.hdr.length) (hr : ¬Registered P chan s) :
    receiveFrame P ⟨chan, ct.byte, (AType.data m).byte, pay⟩ s =
      sendReset P chan
        (poolRelease j (stored P j rest ⟨chan, ct.byte, (AType.data m).byte, pay⟩ s)) := by
  rw [receiveFrame_of_cons _ _ _ _ hf, dispatch, slotOf_stored_self _ hj]
  have h : resolves P chan.toNat
      (stored P j rest ⟨chan, ct.byte, (AType.data m).byte, pay⟩ s) = false := by
    rw [stored_eq]
    simpa [resolves, Registered, chanOf] using hr
  simp only [CType.ofByte_byte, AType.ofByte_byte, hct, if_false, h, Bool.false_eq_true]

/-- Rule R163 step 4. -/
theorem receiveFrame_sequenced {ct : CType} (m : Bool) (hct : ct ≠ .reset)
    (hf : s.free = j :: rest) (hj : j < s.hdr.length) (hr : Registered P chan s) :
    receiveFrame P ⟨chan, ct.byte, (AType.data m).byte, pay⟩ s =
      sequenceDispatch P j m (stored P j rest ⟨chan, ct.byte, (AType.data m).byte, pay⟩ s) := by
  rw [receiveFrame_of_cons _ _ _ _ hf, dispatch, slotOf_stored_self _ hj]
  have h : resolves P chan.toNat
      (stored P j rest ⟨chan, ct.byte, (AType.data m).byte, pay⟩ s) = true := by
    rw [stored_eq]
    simpa [resolves, Registered, chanOf] using hr
  simp only [CType.ofByte_byte, AType.ofByte_byte, hct, if_false, h, if_true]

/-! ### The channel event of an acknowledgment (rules R143, R202, R204) -/

theorem set_eq_modify {s : State} {c : Nat} {ct : CType} {k : Channel}
    (h : c < s.ch.length → k = ackedChannel ct (chanOf c s)) :
    s.ch.set c k = s.ch.modify c (ackedChannel ct) := by
  apply List.ext_getElem?
  intro d
  rw [List.getElem?_modify, List.getElem?_set]
  by_cases hd : c = d
  · subst hd
    by_cases hl : c < s.ch.length
    · simp [hl, h hl, chanOf]
    · simp [hl]
  · simp [hd]

/-- What an acknowledgment tells the frame's channel, whatever the frame: the channel is replaced by
`ackedChannel` of itself, and nothing else changes. -/
theorem ackEvent_eq {P : Params} {s : State} (ct : CType) (c : Nat) (hn : s.ch.length ≤ P.nchan) :
    ackEvent P ct c s = { s with ch := s.ch.modify c (ackedChannel ct) } := by
  have same : (c < s.ch.length → chanOf c s = ackedChannel ct (chanOf c s)) →
      s = { s with ch := s.ch.modify c (ackedChannel ct) } := by
    intro h
    rw [← set_eq_modify h]
    have : s.ch.set c (chanOf c s) = s.ch := by
      by_cases hl : c < s.ch.length
      · simp [chanOf, hl]
      · exact List.set_eq_of_length_le (by omega)
    rw [this]
  cases ct with
  | connreq =>
    simp only [ackEvent, chanCrAcked]
    split
    · rename_i h
      simp only [resolves, Bool.and_eq_true, decide_eq_true_eq] at h
      simp only [setChan]
      congr 1
      apply set_eq_modify
      intro _
      simp [ackedChannel, h]
    · rename_i h
      refine same fun hl => ?_
      rw [ackedChannel, if_neg, if_neg (by simp)]
      intro hk
      apply h
      simp [resolves, hk, show c < P.nchan by omega]
  | discreq =>
    simp only [ackEvent, chanDrAcked]
    split
    · rename_i h
      simp only [resolves, Bool.and_eq_true, decide_eq_true_eq] at h
      simp only [setChan]
      congr 1
      apply set_eq_modify
      intro _
      simp [ackedChannel, h]
    · rename_i h
      refine same fun hl => ?_
      rw [ackedChannel, if_neg (by simp), if_neg]
      intro hk
      apply h
      simp [resolves, hk, show c < P.nchan by omega]
  | noop => exact same fun _ => by simp [ackedChannel]
  | reset => exact same fun _ => by simp [ackedChannel]

end Sys2Proof.Machine
end

