-- ==== Sys2Proof/Tests/Slice0.lean ====
section
/-!
SUPPORT. The model's own tests: ill-formed terms, decoded words, single steps in the reference
configuration REF, and for each statement a state that meets its hypotheses. Expected results are the
spec's vectors (`V<n>` of spec/95_test_vectors.md) or are written out from its tables.
-/

namespace Sys2Proof.Tests

open Sys2Proof.Machine

/-! ### Ill-formed terms (rules R98, R103, R104) -/

theorem test_payload_too_long_is_refused :
    (Instr.data0Noop 0 (List.replicate 33 0)).wellFormed Params.ref = false := by decide

theorem test_longest_payload_is_accepted :
    (Instr.data0Noop 0 (List.replicate 32 0)).wellFormed Params.ref = true := by decide

theorem test_reserved_frame_without_its_bit_is_refused :
    (Instr.frameReservedC2 0 0x03 0 []).wellFormed Params.ref = false := by decide

theorem test_reserved_frame_with_a_lower_bit_is_refused :
    (Instr.frameReservedC3 0 0x0C 0 []).wellFormed Params.ref = false := by decide

theorem test_reserved_atype_with_reserved_ctype_is_refused :
    (Instr.frameReservedA2 0 0x04 0x04 []).wellFormed Params.ref = false := by decide

theorem test_ack_with_reset_tag_is_refused :
    (Instr.ack0 0 .reset []).wellFormed Params.ref = false ∧
      (Instr.ack1 0 .reset []).wellFormed Params.ref = false := by decide

theorem test_too_long_reset_is_refused :
    (Instr.frameReset 0 (.data false) (List.replicate 33 0)).wellFormed Params.ref = false := by decide

/-! ### One word of every row (rules R91, R92, R103 to R105), written out from the encoding tables -/

theorem test_decode_nop : decodeTableWord 32 0x00FFFFFF = some (.nop) := by decide
theorem test_decode_poll : decodeTableWord 32 0x01000000 = some (.poll) := by decide
theorem test_decode_open : decodeTableWord 32 0x02040000 = some (.openChan 4) := by decide
theorem test_decode_close : decodeTableWord 32 0x03010000 = some (.closeChan 1) := by decide
theorem test_decode_connect : decodeTableWord 32 0x04000005 = some (.connect 0 5) := by decide
theorem test_decode_disconnect : decodeTableWord 32 0x05030000 = some (.disconnect 3) := by decide
theorem test_decode_write : decodeTableWord 32 0x060012AB = some (.write 0 0xAB) := by decide
theorem test_decode_flush : decodeTableWord 32 0x07010000 = some (.flush 1) := by decide
theorem test_decode_read : decodeTableWord 32 0x08020000 = some (.read 2) := by decide
theorem test_decode_peek : decodeTableWord 32 0x09000000 = some (.peek 0) := by decide
theorem test_decode_avail : decodeTableWord 32 0x0AFF0000 = some (.avail 0xFF) := by decide
theorem test_decode_status : decodeTableWord 32 0x0B040000 = some (.status 4) := by decide
theorem test_decode_linkstat : decodeTableWord 32 0x0C000000 = some (.linkstat) := by decide
theorem test_decode_reserved_0D : decodeTableWord 32 0x0D000000 = some (.reserved0D) := by decide
theorem test_decode_reserved_0E0F : decodeTableWord 32 0x0F000000 = some (.reserved0E0F 1) := by decide
theorem test_decode_reserved_101F : decodeTableWord 32 0x1A000000 = some (.reserved101F 0xA) := by decide
theorem test_decode_reserved_203F : decodeTableWord 32 0x31000000 = some (.reserved203F 0x11) := by decide
theorem test_decode_reserved_407F : decodeTableWord 32 0x7F000000 = some (.reserved407F 0x3F) := by decide
theorem test_decode_reserved_80FF : decodeTableWord 32 0xFF000000 = some (.reserved80FF 0x7F) := by decide
theorem test_decode_frame_reserved_C2 : decodeTableWord 24 0x050401 = some (.frameReservedC2 5 0x04 1 []) := by decide
theorem test_decode_frame_reserved_C3 : decodeTableWord 24 0x050801 = some (.frameReservedC3 5 0x08 1 []) := by decide
theorem test_decode_frame_reserved_C4 : decodeTableWord 24 0x051001 = some (.frameReservedC4 5 0x10 1 []) := by decide
theorem test_decode_frame_reserved_C5 : decodeTableWord 24 0x052001 = some (.frameReservedC5 5 0x20 1 []) := by decide
theorem test_decode_frame_reserved_C6 : decodeTableWord 24 0x054001 = some (.frameReservedC6 5 0x40 1 []) := by decide
theorem test_decode_frame_reserved_C7 : decodeTableWord 24 0x058001 = some (.frameReservedC7 5 0x80 1 []) := by decide
theorem test_decode_frame_reserved_A2 : decodeTableWord 24 0x050104 = some (.frameReservedA2 5 1 0x04 []) := by decide
theorem test_decode_frame_reserved_A3 : decodeTableWord 24 0x050108 = some (.frameReservedA3 5 1 0x08 []) := by decide
theorem test_decode_frame_reserved_A4 : decodeTableWord 24 0x050110 = some (.frameReservedA4 5 1 0x10 []) := by decide
theorem test_decode_frame_reserved_A5 : decodeTableWord 24 0x050120 = some (.frameReservedA5 5 1 0x20 []) := by decide
theorem test_decode_frame_reserved_A6 : decodeTableWord 24 0x050140 = some (.frameReservedA6 5 1 0x40 []) := by decide
theorem test_decode_frame_reserved_A7 : decodeTableWord 24 0x050180 = some (.frameReservedA7 5 1 0x80 []) := by decide
theorem test_decode_reset : decodeTableWord 24 0x000301 = some (.frameReset 0 (.ack false) []) := by decide
theorem test_decode_ack0 : decodeTableWord 24 0x090201 = some (.ack0 9 .discreq []) := by decide
theorem test_decode_ack1 : decodeTableWord 24 0x000003 = some (.ack1 0 .noop []) := by decide
theorem test_decode_data0_noop : decodeTableWord 24 0x070000 = some (.data0Noop 7 []) := by decide
theorem test_decode_data1_noop : decodeTableWord 24 0x000002 = some (.data1Noop 0 []) := by decide
theorem test_decode_data0_connreq : decodeTableWord 24 0x010100 = some (.data0Connreq 1 []) := by decide
theorem test_decode_data1_connreq : decodeTableWord 24 0x020102 = some (.data1Connreq 2 []) := by decide
theorem test_decode_data0_discreq : decodeTableWord 24 0x000200 = some (.data0Discreq 0 []) := by decide
theorem test_decode_data1_discreq : decodeTableWord 24 0x030202 = some (.data1Discreq 3 []) := by decide

theorem test_several_reserved_bits_take_the_first_row :
    decodeTableWord 24 0x00FCFC = some (.frameReservedC2 0 0xFC 0xFC []) := by decide

theorem test_unknown_width_is_refused : decodeTableWord 40 0 = none := by decide

/-! ### The reference codec and checksum (rule R109; vectors V2, V7, V10, V13 to V19, V22 to V24) -/

theorem test_crc_check_value :
    Params.ref.crc16 [0x31, 0x32, 0x33, 0x34, 0x35, 0x36, 0x37, 0x38, 0x39] = 0x29B1 := by
  decide +kernel

theorem test_raw_ack1 : raw Params.ref 0 .noop (.ack true) [] = [0x00, 0x00, 0x03, 0xFC, 0xFF] := by
  decide +kernel

theorem test_reset_message :
    resetMessage Params.ref 2 = [0x41, 0x67, 0x4D, 0x41, 0x39, 0x36, 0x38, 0x3D] ++ [0x0A] := by
  decide +kernel

theorem test_encode_payload :
    Params.ref.encode (raw Params.ref 0 .noop (.data true) [0x48, 0x69]) =
      [0x41, 0x41, 0x41, 0x43, 0x53, 0x47, 0x6B, 0x47, 0x68, 0x67, 0x3D, 0x3D] := by
  decide +kernel

theorem test_validate_good :
    validate Params.ref [0x41, 0x41, 0x41, 0x43, 0x53, 0x47, 0x6B, 0x47, 0x68, 0x67, 0x3D, 0x3D] false =
      some ⟨0, 0, 2, [0x48, 0x69]⟩ := by
  decide +kernel

theorem test_validate_turns_away :
    [[0x41, 0x41, 0x41, 0x42, 0x33, 0x4C, 0x30], [0x41, 0x41, 0x41, 0x42, 0x33, 0x4C, 0x30, 0x21],
      [0x41, 0x41, 0x41, 0x42, 0x33, 0x4C, 0x30, 0x78], [0x41, 0x41, 0x41, 0x43, 0x51, 0x62, 0x70, 0x47],
      [0x41, 0x41, 0x41, 0x42], [], [0x41, 0x41, 0x51, 0x41, 0x41, 0x46, 0x67, 0x3D],
      [0x41, 0x41, 0x41, 0x45, 0x6A, 0x42, 0x67, 0x3D]].all
      (fun e => validate Params.ref e false == none) = true := by
  decide +kernel

/-! ### Single steps in REF -/

/-- `RST` of the spec: the state after hardware reset. -/
def rst : State := State.powerOn Params.ref

/-- A registered channel in a given state. -/
def chan (c : CState) : Channel := { Channel.idle with reg := true, cstate := c }

/-- A state whose channel 0 is the given one. -/
def set0 (k : Channel) (s : State) : State :=
  { s with ch := [k, Channel.idle, Channel.idle, Channel.idle] }

/-- `LINK0`, endpoint A. -/
def linkA : State :=
  set0 (chan .connected) { rst with txState := .rdy true, free := [2, 3, 4, 5, 1, 0] }

/-- `LINK0`, endpoint B. -/
def linkB : State :=
  set0 (chan .connected) { rst with rxState := .await true, free := [1, 2, 3, 4, 5, 0] }

/-- A state at a given time. -/
def at_ (t : Nat) (s : State) : State := { s with now := BitVec.ofNat 64 t }

/-- A message that arrived, with its start marker. -/
def inject (text : List Byte) (s : State) : State := { s with wireRx := [0x01] ++ text ++ [0x0A] }

theorem test_nop : nopOp { rst with rsp := 5 } = rst := by decide

theorem test_reserved : (reservedOp rst).rsp = 0x04000000 := by decide

theorem test_linkstat : (linkstatOp rst).rsp = 0x00000600 := by decide

theorem test_linkstat_states :
    (linkstatOp { rst with free := [2, 3, 4, 5, 0], rxState := .bufret true }).rsp = 0x0000050C := by
  decide

theorem test_status :
    (statusOp Params.ref 0 (set0 { chan .discPend with cstat := .pending } rst)).rsp = 0x00000027 := by
  decide

theorem test_status_out_of_range : (statusOp Params.ref 4 rst).rsp = 0x04000000 := by decide

theorem test_open : (openOp Params.ref 0 rst).ch.map Channel.reg = [true, false, false, false] := by
  decide

theorem test_open_twice : (openOp Params.ref 0 (openOp Params.ref 0 rst)).rsp = 0x04000000 := by
  decide

/-- V132: the assembly slot goes back first, then the unread slot; `STATUS` is 0 afterwards. -/
theorem test_close :
    (closeOp Params.ref 0 (set0 { chan .connected with inq := [1], asm := some 2 }
      { linkB with rxState := .bufret true, free := [3, 4, 5, 0] })).free = [3, 4, 5, 0, 2, 1] := by
  decide

theorem test_close_acknowledges :
    (closeOp Params.ref 0 (set0 { chan .connected with inq := [1] }
      { linkB with rxState := .bufret true })).wireTx =
      [[0x41, 0x41, 0x41, 0x44, 0x2F, 0x50, 0x38, 0x3D] ++ [0x0A]] := by
  decide +kernel

/-- V117. -/
theorem test_connect :
    let t := connectOp Params.ref 0 5 (set0 (chan .disc) rst)
    t.rsp = 0x02000000 ∧ t.wireTx = [[0x41, 0x41, 0x45, 0x41, 0x2F, 0x36, 0x30, 0x3D] ++ [0x0A]] ∧
      t.txState = .wait false ∧ t.free = [1, 2, 3, 4, 5] ∧ (chanOf 0 t).cTmo = 5000 := by
  decide +kernel

/-- V126: two free slots are the reserve. -/
theorem test_connect_busy :
    (connectOp Params.ref 0 5 (set0 (chan .disc) { rst with free := [4, 5] })).rsp = 0x01000000 := by
  decide

/-- P8, steps 1 to 3: the pending byte goes out before the request. -/
theorem test_disconnect_flushes_first :
    let t := disconnectOp Params.ref 0 (writeOp Params.ref 0 0x52 linkA)
    t.wireTx = [[0x41, 0x41, 0x41, 0x43, 0x55, 0x70, 0x67, 0x56] ++ [0x0A]] ∧ t.txq = [2, 3] ∧
      t.rsp = 0x02000000 := by
  decide +kernel

/-- V119. -/
theorem test_disconnect_busy :
    (disconnectOp Params.ref 0 (set0 (chan .connPend) rst)).rsp = 0x01000000 := by decide

/-- V128. -/
theorem test_write :
    let t := writeOp Params.ref 0 0xAB linkA
    memRead Params.ref 2 0 t = 0xAB ∧ (slotOf 2 t).len = 1 ∧ (chanOf 0 t).asm = some 2 := by
  decide +kernel

/-- V112. -/
theorem test_write_disconnected :
    (writeOp Params.ref 0 1 (set0 (chan .disc) rst)).rsp = 0x03000000 := by decide

/-- V40. -/
theorem test_flush :
    let t := flushOp Params.ref 0 (writeOp Params.ref 0 0x31 (at_ 10 linkA))
    t.wireTx = [[0x41, 0x41, 0x41, 0x43, 0x4D, 0x63, 0x54, 0x51] ++ [0x0A]] ∧ t.txT0 = 10 ∧ t.txq = [2] := by
  decide +kernel

/-- Bytes `48 69` unread in slot 1 of B (V131). -/
def unreadB : State :=
  set0 { chan .connected with inq := [1] }
    { linkB with
      hdr := linkB.hdr.set 1 ⟨0, .noop, .data true, 2⟩
      pay := [(256, 0x48), (257, 0x69)]
      free := [2, 3, 4, 5, 0]
      rxState := .bufret true }

/-- V131: the second READ frees the slot and sends ACK1. -/
theorem test_read_last :
    let t := readOp Params.ref 0 (readOp Params.ref 0 unreadB)
    t.rsp = 0x00000069 ∧ t.rxState = .await false ∧ t.free = [2, 3, 4, 5, 0, 1] ∧
      t.wireTx = [[0x41, 0x41, 0x41, 0x44, 0x2F, 0x50, 0x38, 0x3D] ++ [0x0A]] := by
  decide +kernel

theorem test_read_first :
    (readOp Params.ref 0 unreadB).rsp = 0x00000048 ∧
      (readOp Params.ref 0 unreadB).rxState = .bufret true := by
  decide +kernel

theorem test_peek : (peekOp Params.ref 0 (readOp Params.ref 0 unreadB)).rsp = 0x00000069 := by
  decide +kernel

theorem test_peek_empty : (peekOp Params.ref 0 linkB).rsp = 0x05000000 := by decide

theorem test_avail : (availOp Params.ref 0 (readOp Params.ref 0 unreadB)).rsp = 0x00000001 := by
  decide +kernel

/-- V42: ACK1 frees slot 2 and sends the next frame as DATA0; slot 4 was the receive slot. -/
theorem test_poll_ack_sends_next :
    let s := { linkA with
      hdr := linkA.hdr.set 3 ⟨0, .noop, .data false, 1⟩, pay := [(768, 0x32)], txState := .wait true
      txq := [2, 3], free := [4, 5, 1, 0], txT0 := 10 }
    let t := pollOp Params.ref (inject [0x41, 0x41, 0x41, 0x44, 0x2F, 0x50, 0x38, 0x3D] (at_ 30 s))
    t.wireTx = [[0x41, 0x41, 0x41, 0x41, 0x4D, 0x70, 0x4C, 0x52] ++ [0x0A]] ∧ t.free = [5, 1, 0, 4, 2] ∧
      t.txState = .wait false ∧ t.txT0 = 30 := by
  decide +kernel

/-- V50: the elapsed time is right across a wrap of the 32-bit time; V144: a handshake in time. -/
theorem test_poll_retransmits_across_a_wrap :
    let s := { set0 { chan .connPend with cT0 := 0xFFFFFF9C, cTmo := 5000 } rst with
      hdr := rst.hdr.set 0 ⟨0, .connreq, .data false, 0⟩, txState := .wait false, txq := [0]
      txT0 := 0xFFFFFF9C }
    (pollOp Params.ref (at_ 99 s)).wireTx = [] ∧
      (pollOp Params.ref (at_ 100 s)).wireTx = [[0x41, 0x41, 0x45, 0x41, 0x2F, 0x36, 0x30, 0x3D] ++ [0x0A]] ∧
      (pollOp Params.ref (at_ 100 s)).txRetries = 1 := by
  decide +kernel

/-! A frame kind's meaning starts at the terminator: the accumulator holds its message. -/

/-- V22: reserved bits cost one turn of `FREE`. The twelve rows share it. -/
theorem test_frame_reserved :
    (receiveFrame Params.ref ⟨0, 0x04, 0, []⟩ { linkB with accLen := 8 }) =
      { linkB with free := [2, 3, 4, 5, 0, 1] } := by
  decide +kernel

/-- V71: the RESET tag wins over the ACK bit, the channel id and the payload. -/
theorem test_frame_reset :
    let t := receiveFrame Params.ref ⟨9, 3, 1, [0xEE]⟩
      { linkB with txState := .wait false, txq := [3], rxState := .bufret true }
    t.txState = .rdy false ∧ t.rxState = .await false ∧ t.txq = [] ∧ t.free = [0, 1, 2, 3, 4, 5] ∧
      chanOf 0 t = { chan .disc with cstat := .peerDisconnected } := by
  decide +kernel

/-- V45: ACK0 from no channel, with the tag DISCREQ, is honoured; the connect-request completes. -/
theorem test_frame_ack0 :
    let t := receiveFrame Params.ref ⟨9, 2, 1, [0xEE]⟩
      (set0 (chan .connPend)
        { rst with
          hdr := rst.hdr.set 0 ⟨0, .connreq, .data false, 0⟩, txState := .wait false, txq := [0]
          free := [1, 2] })
    t.txState = .rdy true ∧ t.free = [2, 1, 0] ∧ (chanOf 0 t).cstate = .connected := by
  decide +kernel

/-- V43: a stale ACK1. -/
theorem test_frame_ack1_stale :
    (receiveFrame Params.ref ⟨0, 0, 3, []⟩ { linkA with txState := .wait false, txq := [3] }).txq = [3] := by
  decide +kernel

/-- V65: DATA0 in `AWAIT1` repeats ACK0. -/
theorem test_frame_data0_noop_again :
    let t := receiveFrame Params.ref ⟨0, 0, 0, [0x58]⟩ linkB
    t.wireTx = [[0x41, 0x41, 0x41, 0x42, 0x33, 0x4C, 0x30, 0x3D] ++ [0x0A]] ∧ t.rxState = .await true := by
  decide +kernel

/-- V73: an id that is no channel is answered with a reset notification. -/
theorem test_frame_data0_noop_unresolved :
    (receiveFrame Params.ref ⟨7, 0, 0, [1]⟩ linkB).wireTx =
      [[0x42, 0x77, 0x4D, 0x41, 0x48, 0x46, 0x38, 0x3D] ++ [0x0A]] := by
  decide +kernel

/-- V52: delivered, not yet acknowledged. -/
theorem test_frame_data1_noop :
    let t := receiveFrame Params.ref ⟨0, 0, 2, [0x41]⟩ linkB
    (chanOf 0 t).inq = [1] ∧ t.rxState = .bufret true ∧ t.wireTx = [] ∧ memRead Params.ref 1 0 t = 0x41 := by
  decide +kernel

/-- V68 with the sequences exchanged (V64): a desynchronisation. -/
theorem test_frame_data1_noop_desync :
    let t := receiveFrame Params.ref ⟨0, 0, 2, [0x58]⟩ { linkB with rxState := .bufret false }
    t.rxState = .await false ∧ (chanOf 0 t).cstat = .peerDisconnected ∧ t.wireTx = [] := by
  decide +kernel

/-- V79: passive open. -/
theorem test_frame_data0_connreq :
    let t := receiveFrame Params.ref ⟨0, 1, 0, []⟩ (set0 (chan .disc) rst)
    (chanOf 0 t).cstate = .connected ∧ t.rxState = .await true ∧
      t.wireTx = [[0x41, 0x41, 0x41, 0x42, 0x33, 0x4C, 0x30, 0x3D] ++ [0x0A]] := by
  decide +kernel

/-- V80: ignored by a connected channel, still acknowledged. -/
theorem test_frame_data1_connreq :
    let t := receiveFrame Params.ref ⟨0, 1, 2, []⟩ linkB
    t.ch = linkB.ch ∧ t.rxState = .await false := by
  decide +kernel

/-- V81: the assembly slot is released unsent. -/
theorem test_frame_data0_discreq :
    let t := receiveFrame Params.ref ⟨0, 2, 0, []⟩
      (set0 { chan .connected with asm := some 2 } { rst with free := [0, 1, 3] })
    chanOf 0 t = { chan .disc with cstat := .peerDisconnected } ∧ t.free = [1, 3, 2, 0] := by
  decide +kernel

/-- V82, with DATA1: a disconnected channel keeps its state. -/
theorem test_frame_data1_discreq :
    let t := receiveFrame Params.ref ⟨0, 2, 2, []⟩ (set0 (chan .disc) { rst with rxState := .await true })
    chanOf 0 t = chan .disc ∧ t.rxState = .await false := by
  decide +kernel

/-! ### A state that meets the hypotheses of each statement

The parameters are opaque, so a boundary is named by the parameter: a payload of `MAXPAY` bytes, a pool of
`RX_RESERVE` free slots. -/

/-- The opaque parameters of the machine. -/
abbrev P : Params := Config.params

/-- The reset state with one channel. -/
def with1 (k : Channel) : State := { State.reset with ch := [k] }

theorem registered_with1 {s : State} {k : Channel} (hs : s.ch = [k]) (hk : k.reg = true) :
    Registered P 0 s := by
  refine ⟨P.nchan_pos, ?_⟩
  simp [chanOf, hs, hk]

/-- The longest payload. -/
def longest : List Byte := List.replicate P.maxpay 0

theorem length_longest : longest.length = P.maxpay := List.length_replicate

theorem longest_pos : 0 < longest.length := by
  rw [length_longest]
  exact P.maxpay_pos

/-- A header that is in the table at index 0, with a given length. -/
def slot0 (n : Nat) : List SlotHeader := [⟨0, .noop, .data false, n⟩]

theorem witness_DecodeOfEncodeIsTheInstruction :
    (Instr.data1Noop 0xFF longest).wellFormed P = true := by
  simp [Instr.wellFormed, payloadFits, length_longest]

theorem witness_AcceptedFrameIsTheEncodingOfItsInstruction :
    decodeRaw Params.ref [0x00, 0x00, 0x01, 0xDC, 0xBD] = .ok (.ack0 0 .noop []) := by
  decide +kernel

/-- The opcodes at the ends of the ranges: the last command without fields, the first and the last reserved
one, and the neighbours of CONNECT and WRITE. -/
theorem witness_IgnoredCommandFieldsHaveNoEffect :
    0x0D ≤ (0x0D : Byte).toNat ∧ 0x0D ≤ (0xFF : Byte).toNat ∧
      ((0x05 : Byte) ≠ 0x04 ∧ (0x05 : Byte) ≠ 0x06) ∧ ((0x03 : Byte) ≠ 0x04 ∧ (0x07 : Byte) ≠ 0x06) := by
  decide

theorem witness_StepRunsTheDecodedCommand :
    decode P (.command { State.reset with cmd := 0x04010005 }.cmd) = .ok (.connect 1 5) := rfl

/-- The raw RESET frame of a machine with opaque parameters. -/
def rawReset : List Byte := rawFrame P ⟨9, CType.reset.byte, (AType.ack true).byte, longest⟩

theorem witness_FrameMeaningIsItsMessagesMeaning :
    ∃ s i, decodeMessage P (accumulated P s) s.accOvf = .ok i := by
  refine ⟨accPushes P (P.encode rawReset) State.reset,
    classify ⟨9, CType.reset.byte, (AType.ack true).byte, longest⟩, ?_⟩
  rw [accumulated_accPushes, accPushes_accOvf]
  have h0 : accumulated P State.reset = [] := rfl
  have hd : P.decode (P.encode rawReset) = some rawReset := P.decode_encode _
  have hc : checkRaw P rawReset = .ok ⟨9, CType.reset.byte, (AType.ack true).byte, longest⟩ :=
    checkRaw_rawFrame P _ (Nat.le_of_eq length_longest)
  simp only [h0, List.nil_append, decodeMessage, checkMessage, show State.reset.accOvf = false from rfl,
    Bool.false_eq_true, if_false, hd, hc]
  rfl

theorem witness_PollRunsTheReceivedFrame :
    ∃ (s : State) (i : Instr) (r : List Byte), encode P i = .frame r ∧ i.wellFormed P = true ∧
      s.wireRx = [P.som] ++ P.encode r ++ [P.eom] :=
  ⟨{ State.reset with wireRx := [P.som] ++ P.encode rawReset ++ [P.eom] },
    .frameReset 9 (.ack true) longest, rawReset, rfl,
    by simp [Instr.wellFormed, payloadFits, length_longest], rfl⟩

/-- An encoding holds data bytes alone. -/
theorem data_encode (r : List Byte) : ∀ b ∈ P.encode r, b ≠ P.eom ∧ b ≠ P.som := by
  intro b hb
  have h := P.alphabet_encode r b hb
  exact ⟨fun he => by simp [he, P.eom_alphabet] at h, fun hs => by simp [hs, P.som_alphabet] at h⟩

/-- The byte classes, with the accumulator one short of full and full; a POLL whose bytes just fit and one
with more; a message that a POLL completes, after a part of it and from its start. -/
theorem witness_ReceivedBytesAccumulateUntilTheTerminator :
    ((0x41 : Byte) ≠ Params.ref.eom ∧ (0x41 : Byte) ≠ Params.ref.som ∧
      ({ State.reset with accLen := 51 } : State).accLen < Params.ref.accCap ∧
      Params.ref.accCap ≤ ({ State.reset with accLen := 52 } : State).accLen) ∧
    (∃ s : State, (∀ b ∈ s.wireRx, b ≠ P.eom ∧ b ≠ P.som) ∧ s.accLen ≤ P.accCap ∧
      s.accLen + s.wireRx.length = P.accCap ∧ s.txState.phase = false) ∧
    (∃ s : State, (∀ b ∈ s.wireRx, b ≠ P.eom ∧ b ≠ P.som) ∧ s.accLen ≤ P.accCap ∧
      P.accCap < s.accLen + s.wireRx.length) ∧
    (∃ (s : State) (i : Instr) (r : List Byte), encode P i = .frame r ∧ i.wellFormed P = true ∧
      accumulated P s ++ [] = P.encode r ∧ s.accOvf = false ∧ s.wireRx = [] ++ [P.eom]) ∧
    (∃ (s : State) (i : Instr) (r bs : List Byte), encode P i = .frame r ∧ i.wellFormed P = true ∧
      accumulated P s ++ bs = P.encode r ∧ s.accOvf = false ∧ s.wireRx = bs ++ [P.eom]) := by
  have hw : (Instr.frameReset 9 (.ack true) longest).wellFormed P = true := by
    simp [Instr.wellFormed, payloadFits, length_longest]
  have hl : ∀ n, (P.encode (List.replicate n 0)).length = 4 * ((n + 2) / 3) := by
    intro n
    rw [P.length_encode, List.length_replicate]
  refine ⟨by decide, ⟨{ State.reset with wireRx := P.encode (List.replicate (P.maxpay + 5) 0) },
      data_encode _, Nat.zero_le _, ?_, rfl⟩,
    ⟨{ State.reset with wireRx := P.encode (List.replicate (P.maxpay + 8) 0) },
      data_encode _, Nat.zero_le _, ?_⟩,
    ⟨{ accPushes P (P.encode rawReset) State.reset with wireRx := [P.eom] }, _, rawReset, rfl, hw, ?_,
      accPushes_accOvf P _ State.reset, rfl⟩,
    ⟨{ State.reset with wireRx := P.encode rawReset ++ [P.eom] }, _, rawReset, _, rfl, hw, rfl, rfl, rfl⟩⟩
  · show 0 + _ = _
    rw [Nat.zero_add, hl]
    rfl
  · show _ < 0 + _
    rw [Nat.zero_add, hl]
    show 4 * ((P.maxpay + 5 + 2) / 3) < _
    omega
  · rw [List.append_nil]
    exact accumulated_accPushes P _ State.reset

theorem witness_DiscardedMessageHasNoOtherEffect :
    (∃ (s : State) (i : Nat) (rest : List Nat),
      s.free = i :: rest ∧ validate P (accumulated P s) s.accOvf = none) ∧
    (∃ s : State, s.free = []) ∧ (∃ (i : Instr) (s : State), isFrame P i ∧ s.free = []) :=
  ⟨⟨{ State.reset with free := [0], accOvf := true }, 0, [], rfl, rfl⟩,
    ⟨{ State.reset with free := [] }, rfl⟩, .ack0 0 .noop [], { State.reset with free := [] }, ⟨_, rfl⟩, rfl⟩

theorem witness_NopAndReservedOpcodesOnlyAnswer :
    (0x00FFFFFF : Word32).toNat / 2 ^ 24 = 0 ∧
    Instr.reserved80FF 0x7F ∈ [Instr.reserved0D, .reserved0E0F 0, .reserved101F 0, .reserved203F 0,
      .reserved407F 0, .reserved80FF 0x7F] ∧
    0x0D ≤ (0x0D000000 : Word32).toNat / 2 ^ 24 ∧ 0x0D ≤ (0xFFFFFFFF : Word32).toNat / 2 ^ 24 := by
  decide

theorem witness_LinkstatReportsTheLink :
    ({ State.reset with free := List.range 255 } : State).free.length ≤ 255 := by
  simp

theorem witness_UnregisteredChannelAnswersInvalid :
    Instr.avail 0 ∈ [Instr.closeChan 0, .connect 0 0, .disconnect 0, .write 0 0, .flush 0, .read 0, .peek 0,
      .avail 0] ∧ ¬Registered P 0 (with1 Channel.idle) := by
  refine ⟨by decide, fun h => ?_⟩
  have := h.2
  simp [with1, chanOf, Channel.idle] at this

theorem witness_CloseReturnsEverySlot :
    (∃ s, Registered P 0 s ∧ ((chanOf 0 s).inq = [] ∨ s.rxState.phase = false)) ∧
    (∃ s n, Registered P 0 s ∧ (chanOf 0 s).inq ≠ [] ∧ s.rxState = .bufret n) :=
  ⟨⟨with1 (chan .disc), registered_with1 rfl rfl, .inl rfl⟩,
    { with1 { chan .disc with inq := [0] } with rxState := .bufret true }, true,
    registered_with1 rfl rfl, by simp [with1, chanOf], rfl⟩

theorem witness_HandshakeCommandsAnswerByChannelState (c : CState) :
    ∃ s, Registered P 0 s ∧ (chanOf 0 s).cstate = c ∧ s.free.length ≤ P.rxReserve :=
  ⟨{ with1 (chan c) with free := List.range P.rxReserve }, registered_with1 rfl rfl, rfl, by simp⟩

/-- A state with one slot more than the reserve, and a header for it. -/
def spare (k : Channel) (t : TxState) : State :=
  { with1 k with hdr := slot0 0, free := 0 :: List.range P.rxReserve, txState := t }

theorem witness_ConnectSendsARequest (t : TxState) :
    let s := spare (chan .disc) t
    Registered P 0 s ∧ (chanOf 0 s).cstate = .disc ∧ s.free = 0 :: List.range P.rxReserve ∧
      P.rxReserve ≤ (List.range P.rxReserve).length ∧ 0 < s.hdr.length ∧ s.txState = t ∧ s.txq = [] :=
  ⟨registered_with1 rfl rfl, rfl, rfl, by simp, by simp [spare, slot0], rfl, rfl⟩

theorem witness_DisconnectSendsPendingBytesThenARequest (t : TxState) (a : Option Nat)
    (ha : ∀ i, a = some i → i < 1) :
    let s := spare { chan .connected with asm := a } t
    Registered P 0 s ∧ (chanOf 0 s).cstate = .connected ∧ s.free = 0 :: List.range P.rxReserve ∧
      P.rxReserve ≤ (List.range P.rxReserve).length ∧ 0 < s.hdr.length ∧ s.txState = t ∧ s.txq = [] ∧
      (chanOf 0 s).asm = a ∧ ∀ i, a = some i → i < s.hdr.length :=
  ⟨registered_with1 rfl rfl, rfl, rfl, by simp, by simp [spare, slot0], rfl, rfl, rfl, ha⟩

theorem witness_WriteIsTurnedAway :
    (∃ s, Registered P 0 s ∧ (chanOf 0 s).cstate ≠ .connected) ∧
    (∃ s, Registered P 0 s ∧ (chanOf 0 s).cstate = .connected ∧ (chanOf 0 s).asm = none ∧
      s.free.length ≤ P.rxReserve) :=
  ⟨⟨with1 (chan .discPend), registered_with1 rfl rfl, by simp [with1, chanOf, chan]⟩,
    { with1 (chan .connected) with free := List.range P.rxReserve }, registered_with1 rfl rfl, rfl, rfl,
    by simp⟩

theorem witness_WriteAppendsAByte :
    (∃ s, Registered P 0 s ∧ (chanOf 0 s).cstate = .connected ∧ (chanOf 0 s).asm = some 0 ∧
      (slotOf 0 s).len + 1 ≠ P.maxpay) ∧
    (∃ s, Registered P 0 s ∧ (chanOf 0 s).cstate = .connected ∧ (chanOf 0 s).asm = none ∧
      s.free = 0 :: List.range P.rxReserve ∧ P.rxReserve ≤ (List.range P.rxReserve).length) :=
  ⟨⟨{ with1 { chan .connected with asm := some 0 } with hdr := slot0 P.maxpay },
      registered_with1 rfl rfl, rfl, rfl, by simp [slotOf, slot0]⟩,
    spare (chan .connected) (.rdy true), registered_with1 rfl rfl, rfl, rfl, rfl, by simp⟩

theorem witness_WriteSubmitsTheFullFrame (t : TxState) :
    ∃ s, Registered P 0 s ∧ (chanOf 0 s).cstate = .connected ∧ (chanOf 0 s).asm = some 0 ∧
      (slotOf 0 s).len + 1 = P.maxpay ∧ 0 < s.hdr.length ∧ s.txState = t ∧ s.txq = [] :=
  ⟨{ with1 { chan .connected with asm := some 0 } with hdr := slot0 (P.maxpay - 1), txState := t },
    registered_with1 rfl rfl, rfl, rfl, Nat.sub_add_cancel P.maxpay_pos, by simp [slot0], rfl, rfl⟩

theorem witness_FlushSubmitsTheAssemblyBuffer (t : TxState) (a : Option Nat)
    (ha : ∀ i, a = some i → i < 1) :
    let s := spare { chan .connected with asm := a } t
    Registered P 0 s ∧ (chanOf 0 s).asm = a ∧ (∀ i, a = some i → i < s.hdr.length) ∧ s.txState = t ∧
      s.txq = [] :=
  ⟨registered_with1 rfl rfl, rfl, ha, rfl, rfl⟩

/-- One unread slot of two bytes, with `o` of them read. -/
def unread2 (o : Nat) (r : RxState) : State :=
  { with1 { chan .connected with inq := [0], rdOff := o } with hdr := slot0 2, rxState := r }

theorem witness_ReadConsumesOneByte (r : RxState) :
    (Registered P 0 (with1 (chan .disc)) ∧ (chanOf 0 (with1 (chan .disc))).inq = []) ∧
    (Registered P 0 (unread2 0 r) ∧ (chanOf 0 (unread2 0 r)).inq = [0] ∧
      (chanOf 0 (unread2 0 r)).rdOff + 1 ≠ (slotOf 0 (unread2 0 r)).len) ∧
    (Registered P 0 (unread2 1 r) ∧ (chanOf 0 (unread2 1 r)).inq = [0] ∧
      (chanOf 0 (unread2 1 r)).rdOff + 1 = (slotOf 0 (unread2 1 r)).len ∧ (unread2 1 r).rxState = r) :=
  ⟨⟨registered_with1 rfl rfl, rfl⟩, ⟨registered_with1 rfl rfl, rfl, by simp [unread2, with1, chanOf, slotOf, slot0]⟩,
    registered_with1 rfl rfl, rfl, rfl, rfl⟩

theorem witness_PeekAndAvailOnlyReport :
    (Registered P 0 (with1 (chan .disc)) ∧ (chanOf 0 (with1 (chan .disc))).inq = []) ∧
    (Registered P 0 (unread2 1 (.bufret true)) ∧ (chanOf 0 (unread2 1 (.bufret true))).inq = [0] ∧
      (chanOf 0 (unread2 1 (.bufret true))).rdOff + 1 =
        ((chanOf 0 (unread2 1 (.bufret true))).inq.map fun h => (slotOf h (unread2 1 (.bufret true))).len).sum) :=
  ⟨⟨registered_with1 rfl rfl, rfl⟩, registered_with1 rfl rfl, rfl, rfl⟩

/-- A frame in flight since time 0, at time `t`, with a command word at the port. -/
def flying (t : Time) (w : Word32 := 0) : State :=
  { State.reset with
    hdr := List.replicate P.nbuf ⟨0, .connreq, .data false, 0⟩
    free := List.range' 1 (P.nbuf - 1)
    txState := .wait false
    txq := [0]
    ch := List.replicate P.nchan (chan .disc)
    now := t
    cmd := w }

theorem elapsed_flying {n : Nat} (h : n < 2 ^ P.timeBits) :
    elapsed P (flying (BitVec.ofNat 64 n)) (flying (BitVec.ofNat 64 n)).txT0 = n := by
  have h64 : 2 ^ P.timeBits ≤ 2 ^ 64 := Nat.pow_le_pow_right (by decide) P.timeBits_le
  show (BitVec.ofNat 64 n - 0#64).toNat % 2 ^ P.timeBits = n
  rw [BitVec.sub_zero, BitVec.toNat_ofNat, Nat.mod_eq_of_lt (show n < 2 ^ 64 by omega), Nat.mod_eq_of_lt h]

theorem tRetx_lt_time : P.tRetx < 2 ^ P.timeBits := by
  have := P.tRetx_lt
  have : 2 ^ (P.timeBits - 1) ≤ 2 ^ P.timeBits := Nat.pow_le_pow_right (by decide) (by omega)
  omega

/-- One tick before the timer expires, and at the tick at which it does. -/
theorem witness_PollWithNothingReceivedRunsTheTimers :
    (∃ s : State, s.wireRx = [] ∧ s.ch.length = P.nchan ∧
      (s.txState.phase = false ∨ elapsed P s s.txT0 < P.tRetx)) ∧
    (∃ (s : State) (h : Nat) (rest : List Nat), s.wireRx = [] ∧ s.ch.length = P.nchan ∧
      s.txState.phase = true ∧ P.tRetx ≤ elapsed P s s.txT0 ∧ s.txq = h :: rest) := by
  have hl := tRetx_lt_time
  have hp := P.tRetx_pos
  refine ⟨⟨flying (BitVec.ofNat 64 (P.tRetx - 1)), rfl, by simp [flying], .inr ?_⟩,
    flying (BitVec.ofNat 64 P.tRetx), 0, [], rfl, by simp [flying], rfl, ?_, rfl⟩
  · rw [elapsed_flying (by omega)]
    omega
  · rw [elapsed_flying hl]

theorem witness_AckInTheSamePollPreventsRetransmission :
    ∃ s : State, s.txState = .wait true ∧ s.txq = [1] ∧ s.free = [0] ∧ 0 < s.hdr.length ∧
      s.wireRx = [P.som] ++ ackMessage P true :=
  ⟨{ State.reset with
      hdr := slot0 0, txState := .wait true, txq := [1], free := [0]
      wireRx := [P.som] ++ ackMessage P true },
    rfl, rfl, rfl, by decide, rfl⟩

/-- 200 ticks across a wrap of a 32-bit time, and the longest time a 32-bit time can tell. -/
theorem witness_ElapsedIsRightAcrossAWrap :
    (200 < 2 ^ Params.ref.timeBits ∧ (0x64 : Time).toNat % 2 ^ Params.ref.timeBits =
      ((0xFFFFFF9C : Time).toNat + 200) % 2 ^ Params.ref.timeBits) ∧
    (0xFFFFFFFF < 2 ^ Params.ref.timeBits ∧ (0 : Time).toNat % 2 ^ Params.ref.timeBits =
      ((1 : Time).toNat + 0xFFFFFFFF) % 2 ^ Params.ref.timeBits) := by
  decide

theorem witness_ReservedTagFramesAreDiscarded :
    Instr.frameReservedA7 9 3 0x80 longest ∈ reservedFrames 9 3 0x80 longest ∧
      (Instr.frameReservedA7 9 3 0x80 longest).wellFormed P = true ∧
      ({ State.reset with free := [0] } : State).free = [0] := by
  refine ⟨by simp [reservedFrames], ?_, rfl⟩
  simp [Instr.wellFormed, payloadFits, length_longest]
  decide

/-- One free slot with a header, a receiver state, and one channel. -/
def ready (k : Channel) (r : RxState) : State :=
  { with1 k with hdr := slot0 0, free := [0], rxState := r }

theorem witness_ResetFrameResetsTheLink (r : RxState) :
    longest.length ≤ P.maxpay ∧ (ready (chan .connected) r).free = [0] ∧
      0 < (ready (chan .connected) r).hdr.length :=
  ⟨Nat.le_of_eq length_longest, rfl, by simp [ready, slot0]⟩

/-- Slot 0 free, slot 1 in flight, slots `q` behind it. -/
def sending (t : TxState) (q : List Nat) : State :=
  { with1 (chan .connPend) with
    hdr := [⟨0, .noop, .data false, 0⟩, ⟨0, .connreq, .data true, 0⟩, ⟨0, .noop, .data false, P.maxpay⟩]
    free := [0]
    txState := t
    txq := q }

theorem witness_AckEndsTheTransmission (m : Bool) :
    CType.discreq ≠ .reset ∧ longest.length ≤ P.maxpay ∧ (sending (.wait m) [1]).free = [0] ∧
      0 < (sending (.wait m) [1]).hdr.length ∧ (1 : Nat) ≠ 0 ∧ (sending (.wait m) [1]).txState = .wait m ∧
      (sending (.wait m) [1]).txq = [1] ∧ (sending (.wait m) [1]).ch.length ≤ P.nchan :=
  ⟨by decide, Nat.le_of_eq length_longest, rfl, by simp [sending], by decide, rfl, rfl, P.nchan_pos⟩

theorem witness_AckSendsTheNextFrame (m : Bool) :
    let s := sending (.wait m) [1, 2]
    CType.noop ≠ .reset ∧ longest.length ≤ P.maxpay ∧ s.free = [0] ∧ 0 < s.hdr.length ∧ (1 : Nat) ≠ 0 ∧
      (2 : Nat) ≠ 0 ∧ 2 < s.hdr.length ∧ (slotOf 2 s).len ≤ P.maxpay ∧ s.txState = .wait m ∧
      s.txq = 1 :: 2 :: [] ∧ s.ch.length ≤ P.nchan :=
  ⟨by decide, Nat.le_of_eq length_longest, rfl, by simp [sending], by decide, by decide, by simp [sending],
    by simp [sending, slotOf], rfl, rfl, P.nchan_pos⟩

theorem witness_StaleAckHasNoEffect (m : Bool) :
    CType.connreq ≠ .reset ∧ longest.length ≤ P.maxpay ∧
      ((sending (.rdy m) []).free = [0] ∧ 0 < (sending (.rdy m) []).hdr.length ∧
        (sending (.rdy m) []).txState.phase = false) ∧
      ((sending (.wait (!m)) [1]).free = [0] ∧ (sending (.wait (!m)) [1]).txState.seq ≠ m) :=
  ⟨by decide, Nat.le_of_eq length_longest, ⟨rfl, by simp [sending], rfl⟩, rfl,
    by cases m <;> simp [sending, TxState.seq]⟩

theorem witness_UnresolvedFrameAnswersAResetNotification :
    (Instr.data1Discreq 0 longest, CType.discreq, true) ∈ sequencedFrames 0 longest ∧
      longest.length ≤ P.maxpay ∧ (ready Channel.idle (.bufret false)).free = [0] ∧
      0 < (ready Channel.idle (.bufret false)).hdr.length ∧
      ¬Registered P 0 (ready Channel.idle (.bufret false)) := by
  refine ⟨by simp [sequencedFrames], Nat.le_of_eq length_longest, rfl, by simp [ready, slot0], fun h => ?_⟩
  have := h.2
  simp [ready, with1, chanOf, Channel.idle] at this

/-- For every receiver state: the two clauses of the repeated frame, and the desynchronisation. -/
theorem witness_DuplicateIsIgnoredAndMissedAckIsRepeated (r : RxState) :
    (Instr.data1Connreq 0 longest, CType.connreq, true) ∈ sequencedFrames 0 longest ∧
      longest.length ≤ P.maxpay ∧ (ready (chan .connected) r).free = [0] ∧
      0 < (ready (chan .connected) r).hdr.length ∧ Registered P 0 (ready (chan .connected) r) ∧
      (ready (chan .connected) r).rxState = r :=
  ⟨by simp [sequencedFrames], Nat.le_of_eq length_longest, rfl, by simp [ready, slot0],
    registered_with1 rfl rfl, rfl⟩

theorem witness_UnexpectedSequenceResetsTheLink :
    (Instr.data0Noop 0 longest, CType.noop, false) ∈ sequencedFrames 0 longest ∧
      longest.length ≤ P.maxpay ∧ (ready (chan .disc) (.bufret (!false))).free = [0] ∧
      0 < (ready (chan .disc) (.bufret (!false))).hdr.length ∧
      Registered P 0 (ready (chan .disc) (.bufret (!false))) ∧
      (ready (chan .disc) (.bufret (!false))).rxState = .bufret (!false) :=
  ⟨by simp [sequencedFrames], Nat.le_of_eq length_longest, rfl, by simp [ready, slot0],
    registered_with1 rfl rfl, rfl⟩

theorem witness_PayloadIsDeliveredToItsChannel (m : Bool) :
    0 < longest.length ∧ longest.length ≤ P.maxpay ∧ (ready (chan .discPend) (.await m)).free = [0] ∧
      0 < (ready (chan .discPend) (.await m)).hdr.length ∧ Registered P 0 (ready (chan .discPend) (.await m)) ∧
      (ready (chan .discPend) (.await m)).rxState = .await m ∧
      ((chanOf 0 (ready (chan .discPend) (.await m))).cstate = .connected ∨
        (chanOf 0 (ready (chan .discPend) (.await m))).cstate = .discPend) :=
  ⟨longest_pos, Nat.le_of_eq length_longest, rfl, by simp [ready, slot0], registered_with1 rfl rfl, rfl,
    .inr rfl⟩

/-- An empty payload on a connected channel, and a full one on a connecting channel. -/
theorem witness_UndeliverablePayloadIsAcknowledged (m : Bool) (c : CState) :
    longest.length ≤ P.maxpay ∧ ([] : List Byte).length ≤ P.maxpay ∧ (ready (chan c) (.await m)).free = [0] ∧
      0 < (ready (chan c) (.await m)).hdr.length ∧ Registered P 0 (ready (chan c) (.await m)) ∧
      (ready (chan c) (.await m)).rxState = .await m ∧ (chanOf 0 (ready (chan c) (.await m))).cstate = c :=
  ⟨Nat.le_of_eq length_longest, Nat.zero_le _, rfl, by simp [ready, slot0], registered_with1 rfl rfl, rfl, rfl⟩

theorem witness_ConnectRequestConnectsTheChannel (m : Bool) (c : CState) :
    longest.length ≤ P.maxpay ∧ (ready (chan c) (.await m)).free = [0] ∧
      0 < (ready (chan c) (.await m)).hdr.length ∧ Registered P 0 (ready (chan c) (.await m)) ∧
      (ready (chan c) (.await m)).rxState = .await m :=
  ⟨Nat.le_of_eq length_longest, rfl, by simp [ready, slot0], registered_with1 rfl rfl, rfl⟩

theorem witness_DisconnectRequestDisconnectsTheChannel (m : Bool) (a : Option Nat) :
    longest.length ≤ P.maxpay ∧ (ready { chan .connected with asm := a } (.await m)).free = [0] ∧
      0 < (ready { chan .connected with asm := a } (.await m)).hdr.length ∧
      Registered P 0 (ready { chan .connected with asm := a } (.await m)) ∧
      (ready { chan .connected with asm := a } (.await m)).rxState = .await m :=
  ⟨Nat.le_of_eq length_longest, rfl, by simp [ready, slot0], registered_with1 rfl rfl, rfl⟩

theorem witness_LinkResetIsTotalAndIdempotent : (with1 (chan .connected)).ch[0]? = some (chan .connected) := rfl

/-! Well-formed states, and the steps that leave them. -/

theorem slotOf_flying (t : Time) (w : Word32) (i : Nat) (hi : i < P.nbuf) :
    slotOf i (flying t w) = ⟨0, .connreq, .data false, 0⟩ := by
  simp [slotOf, flying, hi]

theorem nbuf_pos : 0 < P.nbuf := Nat.lt_of_le_of_lt (Nat.zero_le _) P.rxReserve_lt

theorem flatMap_inq_replicate (n : Nat) :
    (List.replicate n (chan .disc)).flatMap (fun k => k.inq) = [] := by
  apply List.flatMap_eq_nil_iff.mpr
  intro k hk
  rw [List.eq_of_mem_replicate hk]
  rfl

theorem filterMap_asm_replicate (n : Nat) :
    (List.replicate n (chan .disc)).filterMap (fun k => k.asm) = [] := by
  simp [chan, Channel.idle]

theorem wellFormed_flying {t : Time} {w : Word32} (ht : timeFits P t) : WellFormedState P (flying t w) := by
  have hn := nbuf_pos
  have hr := P.rxReserve_lt
  have hu : unread (flying t w) = [] := flatMap_inq_replicate _
  have ha : assembling (flying t w) = [] := filterMap_asm_replicate _
  refine ⟨⟨rfl, rfl, Nat.zero_le _⟩, ⟨ht, timeFits_zero P, ?_, by simp [flying, State.reset, State.powerOn],
    by simp [flying, State.reset, State.powerOn], responseWf_zero, fun _ => Nat.zero_le _⟩, ⟨by simp [flying], by simp [flying], ?_, ?_⟩, ⟨?_, ?_, ?_, ?_⟩, ⟨?_, ?_⟩, ?_, ?_⟩
  · intro k hk
    have : k = chan .disc := List.eq_of_mem_replicate hk
    subst this
    exact ⟨timeFits_zero P, timeFits_zero P⟩
  · have h : holders (flying t w) = List.range' 1 (P.nbuf - 1) ++ [0] := by
      rw [holders]
      rw [show (flying t w).ch.flatMap (fun k => k.inq) = [] from hu,
        show (flying t w).ch.filterMap (fun k => k.asm) = [] from ha]
      simp [flying]
    rw [h, List.range_eq_range', show P.nbuf = (P.nbuf - 1) + 1 by omega, List.range'_succ]
    exact List.perm_append_comm (l₁ := List.range' 1 (P.nbuf - 1)) (l₂ := [0])
  · intro k hk
    have : k = chan .disc := List.eq_of_mem_replicate hk
    subst this
    intro h
    simp [chan] at h
  · intro h
    simp [flying, TxState.phase] at h
  · intro _
    exact ⟨0, [], rfl, by rw [slotOf_flying t w 0 hn]; rfl⟩
  · rw [ha]
    simp [flying]
    omega
  · intro i hi
    have : i = 0 := by simpa [flying] using hi
    subst this
    rw [slotOf_flying t w 0 hn]
    decide
  · rw [hu]
    simp [flying, State.reset, State.powerOn, RxState.phase]
  · rw [hu]
    simp
  · intro c k hk
    have : k = chan .disc := by
      have := List.mem_of_getElem? hk
      exact List.eq_of_mem_replicate this
    subst this
    refine ⟨.inl rfl, fun _ => rfl, ?_, ?_⟩
    · intro h rest h'
      simp [chan, Channel.idle] at h'
    · intro a h'
      simp [chan, Channel.idle] at h'
  · intro h hh
    have : h = ⟨0, .connreq, .data false, 0⟩ := List.eq_of_mem_replicate hh
    subst this
    exact Nat.zero_le _

/-- The step out of `flying`: its command word is a NOP. -/
theorem step_flying (t : Time) : step (flying t) = .next { flying t with rsp := 0 } := by
  have h : decodeCommand (flying t).cmd = .nop := (by decide : decodeCommand 0 = .nop)
  rw [step, h]
  rfl

theorem registered_flying (t : Time) : Registered P 0 (flying t) := by
  have := P.nchan_pos
  refine ⟨this, ?_⟩
  simp [chanOf, flying, show 0 < P.nchan by omega, chan]

theorem witness_SecondCopyOfAFrameIsNotDelivered :
    ∃ (i : Instr) (s t u : State),
      (i, CType.noop, false) ∈ sequencedFrames 0 longest ∧ i.wellFormed P = true ∧ OwnershipWf P s ∧
        Registered P 0 s ∧ s.rxState = .await false ∧ exec i s = .next t ∧ exec i t = .next u :=
  ⟨.data0Noop 0 longest, flying 0, _, _, by simp [sequencedFrames],
    by simp [Instr.wellFormed, payloadFits, length_longest], (wellFormed_flying (timeFits_zero P)).ownership,
    registered_flying 0, rfl, rfl, rfl⟩

theorem witness_StepKeepsStorageCanonical :
    ∃ s t, StorageWf P s ∧ step s = .next t := ⟨flying 0, _, (wellFormed_flying (timeFits_zero P)).storage, step_flying 0⟩

theorem witness_StepKeepsSlotOwnership :
    ∃ s t, OwnershipWf P s ∧ step s = .next t := ⟨flying 0, _, (wellFormed_flying (timeFits_zero P)).ownership, step_flying 0⟩

/-- The premise of the statements about a step from a well-formed state. -/
theorem witness_StepKeepsEveryStateInvariant :
    ∃ s t, WellFormedState P s ∧ step s = .next t := ⟨flying 0, _, wellFormed_flying (timeFits_zero P), step_flying 0⟩

/-- A POLL at the retransmission timeout: a step that emits a message. -/
theorem witness_EveryEmittedMessageIsAValidFrame :
    ∃ s t, WellFormedState P s ∧ step s = .next t ∧ t.wireTx.length = s.wireTx.length + 1 := by
  have hl : P.tRetx < 2 ^ P.timeBits :=
    Nat.lt_of_lt_of_le P.tRetx_lt (Nat.pow_le_pow_right (by decide) (Nat.sub_le _ _))
  have h64 : 2 ^ P.timeBits ≤ 2 ^ 64 := Nat.pow_le_pow_right (by decide) P.timeBits_le
  let s := flying (BitVec.ofNat 64 P.tRetx) 0x01000000
  have hs : step s = .next (pollOp P s) := by
    have h : decodeCommand s.cmd = .poll := (by decide : decodeCommand 0x01000000 = .poll)
    rw [step, h]
    rfl
  have he : elapsed P s s.txT0 = P.tRetx := elapsed_flying hl
  have hc : atCeiling P s = false := by
    have h0 : s.txRetries.toNat = 0 := rfl
    simp only [atCeiling, h0, Nat.le_zero, ← Bool.decide_and, decide_eq_false_iff_not]
    exact fun h => h.1 h.2
  have ht : txTimer P s = retransmit P s := by
    simp [txTimer, show s.txState.phase = true from rfl, expired, he, hc]
  have hf : timeFits P s.now := by
    show (BitVec.ofNat 64 P.tRetx).toNat < _
    rw [BitVec.toNat_ofNat, Nat.mod_eq_of_lt (by omega)]
    exact hl
  refine ⟨s, pollOp P s, wellFormed_flying hf, hs, ?_⟩
  show (pollTimers P s).wireTx.length = _
  simp only [pollTimers, respond, chanTimers_wireTx, ht]
  rfl

/-- The premises are met by every event that is no command, and by a command. -/
theorem witness_EveryEventKeepsEveryStateInvariant (e : Event) :
    (∃ s t, WellFormedState P s ∧ eventStep e s = .next t) ∧
      Reachable { State.reset with wireRx := [0x41] } := by
  have h : ∃ t, eventStep e (flying 0) = .next t := by
    cases e with
    | command cmd now =>
      simp only [eventStep, step]
      generalize decodeCommand _ = i
      cases i <;> exact ⟨_, rfl⟩
    | _ => exact ⟨_, rfl⟩
  obtain ⟨t, ht⟩ := h
  exact ⟨⟨flying 0, t, wellFormed_flying (timeFits_zero P), ht⟩, .event (.arrive [0x41]) .reset rfl⟩

theorem witness_ReserveStaysForTheReceiveHalf : ∃ s, WellFormedState P s := ⟨flying 0, wellFormed_flying (timeFits_zero P)⟩

theorem witness_FrameInFlightKeepsItsMessage :
    ∃ s t, WellFormedState P s ∧ step s = .next t ∧ s.txState.phase = true ∧ s.txq.head? = some 0 ∧
      t.txq.head? = some 0 :=
  ⟨flying 0, _, wellFormed_flying (timeFits_zero P), step_flying 0, rfl, rfl, rfl⟩

theorem witness_OnlyOpenAndCloseChangeRegistration :
    ∃ t, exec .poll (flying 0) = .next t ∧ (∀ ch, Instr.poll ≠ .openChan ch) ∧
      ∀ ch, Instr.poll ≠ .closeChan ch :=
  ⟨_, rfl, by simp, by simp⟩

theorem witness_HandshakesStartByCommandAlone :
    (∃ s t, exec (.connect 0 1) s = .next t ∧ (chanOf 0 t).cstate = .connPend ∧
      (chanOf 0 s).cstate ≠ .connPend) ∧
    (∃ s t, exec (.disconnect 0) s = .next t ∧ (chanOf 0 t).cstate = .discPend ∧
      (chanOf 0 s).cstate ≠ .discPend) := by
  have hc : (0 : Byte).toNat < P.nchan := P.nchan_pos
  have ha : ∀ k t, txAcquire P (spare k t) = some (0, { spare k t with free := List.range P.rxReserve }) :=
    fun k t => txAcquire_of_cons (by simp [spare]) rfl
  refine ⟨⟨spare (chan .disc) (.wait true), _, rfl, ?_, by simp [spare, with1, chanOf, chan]⟩,
    spare (chan .connected) (.wait true), _, rfl, ?_, by simp [spare, with1, chanOf, chan]⟩
  · rw [connectOp, chanCheck_registered hc rfl, ha]
    rfl
  · rw [disconnectOp, chanCheck_registered hc rfl, ha]
    rfl

theorem witness_PortsAndReceiveHalfChangeOnlyAsStated :
    ∃ t, exec (.write 0 0x41) (flying 0) = .next t ∧ isCommand P (.write 0 0x41) ∧
      Instr.write 0 0x41 ≠ .poll ∧ (∀ ch, Instr.write 0 0x41 ≠ .read ch) ∧
      ∀ ch, Instr.write 0 0x41 ≠ .closeChan ch :=
  ⟨_, rfl, ⟨_, rfl⟩, by simp, by simp, by simp⟩

theorem witness_NothingNewIsSentWhileAFrameIsInFlight :
    ∃ t, exec (.connect 0 1) (flying 0) = .next t ∧ (flying 0).txState.phase = true ∧
      isCommand P (.connect 0 1) ∧ Instr.connect 0 1 ≠ .poll ∧ (∀ ch, Instr.connect 0 1 ≠ .read ch) ∧
      ∀ ch, Instr.connect 0 1 ≠ .closeChan ch :=
  ⟨_, rfl, rfl, ⟨_, rfl⟩, by simp, by simp, by simp⟩

/-- An unresolved frame is answered; a READ of the last byte acknowledges. -/
theorem witness_AckIsSentOnlyWithAFreeSlot :
    (∃ i s t, exec i s = .next t ∧ t.wireTx ≠ s.wireTx ∧ isFrame P i) ∧
    (∃ s t, exec (.read 0) s = .next t ∧ t.wireTx ≠ s.wireTx) := by
  have hc : (0 : Byte).toNat < P.nchan := P.nchan_pos
  refine ⟨⟨.data0Noop 0 [], ready Channel.idle (.await false), _, rfl, ?_, _, rfl⟩,
    unread2 1 (.bufret true), _, rfl, ?_⟩
  · rw [receiveFrame_unresolved (j := 0) (rest := []) false (by decide) rfl (by simp [ready, slot0]), stored_eq]
    · simp [sendReset, emit, poolRelease]
    · exact witness_UnresolvedFrameAnswersAResetNotification.2.2.2.2 ∘ fun h => h
  · rw [readOp, chanCheck_registered hc rfl]
    simp [unread2, with1, chanOf, slotOf, slot0, channelRelease, respond, sendAck, emit, poolRelease, setChan]

theorem witness_ObservationsAreIdempotent :
    Instr.avail 0 ∈ [Instr.nop, .linkstat, .status 0, .peek 0, .avail 0] ∧
      ∃ t, exec (.avail 0) (flying 0) = .next t :=
  ⟨by decide, _, rfl⟩

end Sys2Proof.Tests
end

section
/-!
PROOFS. Every event keeps a state well formed (00_scope.md R7, R10). The rules' invariants hold
between commands only: in the middle of one, a slot has left its holder and not reached the next. So
the proof is about `Busy`, the same invariants with the slots in hand named, and goes operation by
operation: each lemma `Busy.<operation>` says what the operation asks of the hand and leaves in it.
With nothing in hand, `Busy` is `WellFormedState` (`busy_nil_iff`).
-/

namespace Sys2Proof.Machine

/-! ### One channel -/

/-- What the rules ask of channel `c`: those of `ChannelWf`, and with them rules R34 (iii), R36 and
R41. -/
structure ChannelOk (P : Params) (c : Nat) (k : Channel) (s : State) : Prop
    extends ChannelWf P c k s where
  unregistered_idle : k.idleIfUnregistered
  times_fit : timeFits P k.cT0 ∧ timeFits P k.cTmo
  unread_slot : ∀ i ∈ k.inq, 1 ≤ (slotOf i s).len ∧ (slotOf i s).ctype = .noop

/-- A channel looks at the slots it holds, and there at the fields that name the frame's channel, type
and length. -/
theorem ChannelOk.congr {P : Params} {c : Nat} {k : Channel} {s t : State} (h : ChannelOk P c k s)
    (hst : ∀ i, i ∈ k.inq ∨ k.asm = some i → (slotOf i t).chan = (slotOf i s).chan ∧
      (slotOf i t).ctype = (slotOf i s).ctype ∧ (slotOf i t).len = (slotOf i s).len) :
    ChannelOk P c k t where
  stored_status := h.stored_status
  rdOff_empty := h.rdOff_empty
  rdOff_head i rest hi := by
    rw [(hst i (.inl (hi ▸ List.mem_cons_self))).2.2]
    exact h.rdOff_head i rest hi
  assembly a ha := by
    obtain ⟨hchan, hctype, hlen⟩ := hst a (.inr ha)
    rw [hchan, hctype, hlen]
    exact h.assembly a ha
  unregistered_idle := h.unregistered_idle
  times_fit := h.times_fit
  unread_slot i hi := by
    obtain ⟨-, hctype, hlen⟩ := hst i (.inl hi)
    rw [hctype, hlen]
    exact h.unread_slot i hi

/-- An assembly buffer is held in `CONNECTED` alone (rule R40). -/
theorem ChannelOk.asm_eq_none {P : Params} {c : Nat} {k : Channel} {s : State}
    (h : ChannelOk P c k s) (hk : k.cstate ≠ .connected) : k.asm = none := by
  cases ha : k.asm with
  | none => rfl
  | some a => exact absurd (h.assembly a ha).1 hk

theorem idle_of_registered {k : Channel} (hreg : k.reg = true) : k.idleIfUnregistered :=
  fun hr => absurd (hreg.symm.trans hr) (by decide)

theorem getElem?_chanOf {c : Nat} {s : State} (hc : c < s.ch.length) :
    s.ch[c]? = some (chanOf c s) := by
  simp [chanOf, hc]

/-- Replacing one channel exchanges its slots for the new channel's. -/
theorem flatMap_set_perm {l : List Channel} (f : Channel → List Nat) {c : Nat} {k : Channel}
    (k' : Channel) (hk : l[c]? = some k) :
    ((l.set c k').flatMap f ++ f k).Perm (l.flatMap f ++ f k') := by
  induction l generalizing c with
  | nil => simp at hk
  | cons a l ih =>
    rw [List.perm_iff_count]
    intro x
    cases c with
    | zero =>
      simp only [List.getElem?_cons_zero, Option.some.injEq] at hk
      simp only [hk, List.set_cons_zero, List.flatMap_cons, List.count_append]
      omega
    | succ c =>
      have := (ih (c := c) (by simpa using hk)).count_eq x
      simp only [List.set_cons_succ, List.flatMap_cons, List.count_append] at this ⊢
      omega

theorem unread_setChan_perm {c : Nat} {k : Channel} {s : State} (k' : Channel)
    (hk : s.ch[c]? = some k) : (unread (setChan c k' s) ++ k.inq).Perm (unread s ++ k'.inq) :=
  flatMap_set_perm (fun k => k.inq) k' hk

theorem assembling_setChan_perm {c : Nat} {k : Channel} {s : State} (k' : Channel)
    (hk : s.ch[c]? = some k) :
    (assembling (setChan c k' s) ++ k.asm.toList).Perm (assembling s ++ k'.asm.toList) := by
  simp only [assembling, List.filterMap_eq_flatMap_toList]
  exact flatMap_set_perm (fun k => k.asm.toList) k' hk

/-! ### A command under way -/

/-- The slots that some holder names, by their holders. -/
theorem holders_eq (s : State) : holders s = s.free ++ s.txq ++ unread s ++ assembling s := rfl

/-- The invariants of a well-formed state in the middle of a command, when some slots have left one
holder and not reached the next: `out` are on their way to `TXQ`, `delivered` hold an accepted frame that
is not acknowledged, `loose` are any others. Rule R25's bound counts `out` and rule R34's count counts
`delivered`. -/
structure Busy (P : Params) (out delivered loose : List Nat) (s : State) : Prop
    extends StorageWf P s, RegistersWf P s where
  hdr_length : s.hdr.length = P.nbuf
  ch_length : s.ch.length = P.nchan
  one_holder : (holders s ++ (out ++ delivered ++ loose)).Perm (List.range P.nbuf)
  idle_empty : s.txState.phase = false → s.txq = []
  head_sequence : s.txState.phase = true →
    ∃ h rest, s.txq = h :: rest ∧ (slotOf h s).atype = .data s.txState.seq
  bounded : s.txq.length + (assembling s).length + out.length + P.rxReserve ≤ P.nbuf
  queued_kind : ∀ i ∈ s.txq, (slotOf i s).ctype ≠ .reset
  unread_count : (unread s).length + delivered.length = if s.rxState.phase then 1 else 0
  channel : ∀ c k, s.ch[c]? = some k → ChannelOk P c k s
  lengths : LengthsWf P s

/-- Between commands every slot is with its holder. -/
theorem busy_nil_iff {P : Params} {s : State} : Busy P [] [] [] s ↔ WellFormedState P s := by
  constructor
  · intro h
    have hmem : ∀ k ∈ s.ch, ∃ c, ChannelOk P c k s := fun k hk =>
      (List.getElem?_of_mem hk).imp fun c hc => h.channel c k hc
    exact {
      storage := h.toStorageWf
      registers := h.toRegistersWf
      ownership := {
        hdr_length := h.hdr_length
        ch_length := h.ch_length
        one_holder := by simpa using h.one_holder
        unregistered_idle := fun k hk => (hmem k hk).elim fun _ hc => hc.unregistered_idle }
      transmit := {
        idle_empty := h.idle_empty
        head_sequence := h.head_sequence
        bounded := h.bounded
        queued_kind := h.queued_kind }
      receive := {
        unread_count := h.unread_count
        unread_slot := fun i hi => by
          obtain ⟨k, hk, hik⟩ := List.mem_flatMap.mp hi
          obtain ⟨c, hc⟩ := hmem k hk
          exact hc.unread_slot i hik }
      channels := fun c k hk => (h.channel c k hk).toChannelWf
      lengths := h.lengths }
  · rintro ⟨hstorage, hregisters, hownership, htransmit, hreceive, hchannels, hlengths⟩
    exact {
      hstorage, hregisters, htransmit with
      hdr_length := hownership.hdr_length
      ch_length := hownership.ch_length
      one_holder := by simpa using hownership.one_holder
      unread_count := hreceive.unread_count
      channel := fun c k hk => {
        hchannels c k hk with
        unregistered_idle := hownership.unregistered_idle k (List.mem_of_getElem? hk)
        times_fit := hregisters.channel_times_fit k (List.mem_of_getElem? hk)
        unread_slot := fun i hi => hreceive.unread_slot i
          (List.mem_flatMap.mpr ⟨k, List.mem_of_getElem? hk, hi⟩) }
      lengths := hlengths }

variable {P : Params} {out delivered loose : List Nat} {s t : State} {c i : Nat} {k : Channel}

theorem Busy.nodup (h : Busy P out delivered loose s) :
    (holders s ++ (out ++ delivered ++ loose)).Nodup :=
  h.one_holder.nodup_iff.mpr List.nodup_range

/-- Slots that change hands keep their number of mentions (rule R23). -/
theorem Busy.perm_of_count {l : List Nat} (h : Busy P out delivered loose s)
    (hl : ∀ x, l.count x = (holders s ++ (out ++ delivered ++ loose)).count x) :
    l.Perm (List.range P.nbuf) :=
  (List.perm_iff_count.mpr hl).trans h.one_holder

/-- A slot in hand is in the table. -/
theorem Busy.lt_of_mem (h : Busy P out delivered loose s) (hi : i ∈ out ++ delivered ++ loose) :
    i < s.hdr.length := by
  rw [h.hdr_length]
  exact List.mem_range.mp (h.one_holder.mem_iff.mp (List.mem_append_right _ hi))

/-- A slot in hand has no holder. -/
theorem Busy.not_mem_holders (h : Busy P out delivered loose s)
    (hi : i ∈ out ++ delivered ++ loose) : i ∉ holders s :=
  fun hs => List.disjoint_of_nodup_append h.nodup hs hi

/-- No slot in hand is queued. -/
theorem Busy.ne_of_mem_txq (h : Busy P out delivered loose s) (hi : i ∈ out ++ delivered ++ loose)
    {j : Nat} (hj : j ∈ s.txq) : i ≠ j := by
  rintro rfl
  exact h.not_mem_holders hi (by simp [holders_eq, hj])

/-- No slot in hand is a channel's. -/
theorem Busy.ne_of_held (h : Busy P out delivered loose s) (hi : i ∈ out ++ delivered ++ loose)
    (hk : s.ch[c]? = some k) {j : Nat} (hj : j ∈ k.inq ∨ k.asm = some j) : i ≠ j := by
  rintro rfl
  have hmem := List.mem_of_getElem? hk
  refine h.not_mem_holders hi ?_
  rw [holders_eq]
  rcases hj with hj | hj
  · exact List.mem_append_left _ (List.mem_append_right _ (List.mem_flatMap.mpr ⟨k, hmem, hj⟩))
  · exact List.mem_append_right _ (List.mem_filterMap.mpr ⟨k, hmem, hj⟩)

/-- An update that leaves the channels and the slot headers alone leaves every channel in order. -/
theorem Busy.channel_of_eq (h : Busy P out delivered loose s) (hch : t.ch = s.ch)
    (hhdr : t.hdr = s.hdr) : ∀ c k, t.ch[c]? = some k → ChannelOk P c k t := by
  intro c k hk
  have hslot : ∀ i, slotOf i t = slotOf i s := fun i => by simp only [slotOf, hhdr]
  exact (h.channel c k (hch ▸ hk)).congr fun i _ => by simp only [hslot, and_self]

theorem Busy.chanOf_ok (h : Busy P out delivered loose s) (hc : c < P.nchan) :
    s.ch[c]? = some (chanOf c s) ∧ ChannelOk P c (chanOf c s) s := by
  have hk := getElem?_chanOf (h.ch_length ▸ hc)
  exact ⟨hk, h.channel c _ hk⟩

theorem Busy.len_le (h : Busy P out delivered loose s) (i : Nat) : (slotOf i s).len ≤ P.maxpay := by
  unfold slotOf
  by_cases hi : i < s.hdr.length
  · rw [List.getD_eq_getElem _ _ hi]
    exact h.lengths _ (List.getElem_mem hi)
  · rw [List.getD_eq_default _ _ (Nat.le_of_not_lt hi)]
    exact Nat.zero_le _

/-! ### Slots -/

/-- The header of a slot in hand may be rewritten. -/
protected theorem Busy.setSlot (h : Busy P out delivered loose s)
    (hi : i ∈ out ++ delivered ++ loose) {d : SlotHeader} (hd : d.len ≤ P.maxpay) : Busy P out delivered loose (setSlot i d s) :=
  { h with
    hdr_length := by simp [h.hdr_length]
    head_sequence := fun hp => by
      obtain ⟨j, rest, hq, ha⟩ := h.head_sequence hp
      refine ⟨j, rest, hq, ?_⟩
      rw [slotOf_setSlot_ne _ _ (h.ne_of_mem_txq hi (hq ▸ List.mem_cons_self))]
      exact ha
    queued_kind := fun j hj => by
      rw [slotOf_setSlot_ne _ _ (h.ne_of_mem_txq hi hj)]
      exact h.queued_kind j hj
    channel := fun c k hk => (h.channel c k hk).congr fun j hj => by
      rw [slotOf_setSlot_ne _ _ (h.ne_of_held hi hk hj)]
      exact ⟨rfl, rfl, rfl⟩
    lengths := fun e he => by
      rcases List.mem_or_eq_of_mem_set he with he | rfl
      · exact h.lengths e he
      · exact hd }

protected theorem Busy.memWrite (h : Busy P out delivered loose s) (i o : Nat) (v : Byte) :
    Busy P out delivered loose (memWrite P i o v s) :=
  { h with
    pay_canonical := memWrite_wf P i o v s h.pay_canonical
    channel := h.channel_of_eq rfl rfl }

protected theorem Busy.storeBytes (bs : List Byte) :
    ∀ {o : Nat} {s : State}, Busy P out delivered loose s →
      Busy P out delivered loose (storeBytes P i o bs s) := by
  induction bs with
  | nil => exact id
  | cons b bs ih => exact fun h => ih (h.memWrite _ _ b)

protected theorem Busy.storeFrame (h : Busy P out delivered loose s)
    (hi : i ∈ out ++ delivered ++ loose) {f : RawFrame} (hf : f.pay.length ≤ P.maxpay) :
    Busy P out delivered loose (storeFrame P i f s) :=
  Busy.storeBytes f.pay (h.setSlot hi hf)

/-! ### The pool -/

/-- Slots pass between the pool and the hand; the transmit side stays within its bound. -/
theorem Busy.regroup {free' out' loose' : List Nat} (h : Busy P out delivered loose s)
    (hperm : (free' ++ out' ++ loose').Perm (s.free ++ out ++ loose))
    (hbound : s.txq.length + (assembling s).length + out'.length + P.rxReserve ≤ P.nbuf) :
    Busy P out' delivered loose' { s with free := free' } :=
  { h with
    one_holder := h.perm_of_count fun x => by
      have := hperm.count_eq x
      simp only [holders, List.count_append] at this ⊢
      omega
    bounded := hbound
    channel := h.channel_of_eq rfl rfl }

/-- The pool, the queue, the channels and the hand share the slots. -/
theorem Busy.slot_count (h : Busy P out delivered loose s) :
    s.free.length + s.txq.length + (unread s).length + (assembling s).length + out.length +
      delivered.length + loose.length = P.nbuf := by
  have := h.one_holder.length_eq
  simp only [holders_eq, List.length_append, List.length_range] at this
  omega

protected theorem Busy.poolAcquire (h : Busy P out delivered loose s) {i : Nat} {rest : List Nat}
    (hf : s.free = i :: rest) : Busy P out delivered (i :: loose) { s with free := rest } :=
  h.regroup (by rw [hf, List.perm_iff_count]; intro x; simp [List.count_cons]; omega) h.bounded

/-- An acquisition that leaves `RX_RESERVE` slots keeps the transmit side within its bound (rules R25,
R133). -/
protected theorem Busy.txAcquire (h : Busy P [] [] [] s) (ha : txAcquire P s = some (i, t)) :
    Busy P [i] [] [] t := by
  obtain ⟨hlt, rest, hf, rfl⟩ := txAcquire_eq_some.mp ha
  refine h.regroup (by rw [hf, List.perm_iff_count]; intro x; simp [List.count_cons]) ?_
  have := h.slot_count
  simp only [List.length_cons, List.length_nil] at this ⊢
  omega

protected theorem Busy.poolRelease (h : Busy P out delivered (i :: loose) s) :
    Busy P out delivered loose (poolRelease i s) :=
  h.regroup (by rw [List.perm_iff_count]; intro x; simp [List.count_cons]; omega) h.bounded

/-- A slot on its way to `TXQ` may go back to the pool. -/
theorem Busy.poolRelease_out (h : Busy P (i :: out) delivered loose s) :
    Busy P out delivered loose (poolRelease i s) :=
  h.regroup (by rw [List.perm_iff_count]; intro x; simp [List.count_cons])
    (by have := h.bounded; simp only [List.length_cons] at this; omega)

protected theorem Busy.releaseAsm {asm : Option Nat}
    (h : Busy P (asm.toList ++ out) delivered loose s) :
    Busy P out delivered loose (releaseAsm asm s) := by
  cases asm with
  | none => exact h
  | some a => exact h.poolRelease_out

/-! ### Channels -/

/-- A channel may be replaced by one in order, if the slots it gives up or takes are in hand: assembly
buffers pass to and from `out`, unread frames to and from `delivered`. -/
protected theorem Busy.setChan {out' delivered' : List Nat} {k' : Channel}
    (h : Busy P out delivered loose s) (hk : s.ch[c]? = some k) (hk' : ChannelOk P c k' s)
    (hasm : (k'.asm.toList ++ out').Perm (k.asm.toList ++ out))
    (hinq : (k'.inq ++ delivered').Perm (k.inq ++ delivered)) :
    Busy P out' delivered' loose (setChan c k' s) := by
  have hunread := unread_setChan_perm k' hk
  have hassembling := assembling_setChan_perm k' hk
  have hchannel : ∀ d j, (setChan c k' s).ch[d]? = some j → ChannelOk P d j (setChan c k' s) := by
    intro d j hj
    have hok : ChannelOk P d j s := by
      rw [setChan_ch, List.getElem?_set] at hj
      split at hj
      · rename_i hcd
        split at hj
        · cases hj
          exact hcd ▸ hk'
        · cases hj
      · exact h.channel d j hj
    exact hok.congr fun _ _ => ⟨rfl, rfl, rfl⟩
  exact {
    h with
    channel_times_fit := fun j hj =>
      (List.getElem?_of_mem hj).elim fun d hd => (hchannel d j hd).times_fit
    ch_length := by simp [h.ch_length]
    one_holder := h.perm_of_count fun x => by
      have h1 := hunread.count_eq x
      have h2 := hassembling.count_eq x
      have h3 := hasm.count_eq x
      have h4 := hinq.count_eq x
      simp only [holders_eq, List.count_append, setChan_free, setChan_txq] at h1 h2 h3 h4 ⊢
      omega
    bounded := by
      have h1 := hassembling.length_eq
      have h2 := hasm.length_eq
      have h3 := h.bounded
      simp only [List.length_append, setChan_txq] at h1 h2 h3 ⊢
      omega
    unread_count := by
      refine Eq.trans ?_ h.unread_count
      have h1 := hunread.length_eq
      have h2 := hinq.length_eq
      simp only [List.length_append] at h1 h2
      omega
    channel := hchannel }

/-! ### Registers and ports -/

protected theorem Busy.respond (h : Busy P out delivered loose s) {st : Status} {d : BitVec 16}
    (hd : st = .success ∨ d = 0) : Busy P out delivered loose (respond st d s) :=
  { h with
    response := responseWf_rspWord hd
    channel := h.channel_of_eq rfl rfl }

theorem message_ne_nil (P : Params) (r : List Byte) : message P r ≠ [] := by simp [message]

protected theorem Busy.emit (h : Busy P out delivered loose s) {m : List Byte} (hm : m ≠ []) :
    Busy P out delivered loose (emit m s) :=
  { h with
    messages_nonempty := fun m' hm' => by
      rcases List.mem_append.mp hm' with hm' | hm'
      · exact h.messages_nonempty m' hm'
      · exact List.mem_singleton.mp hm' ▸ hm
    channel := h.channel_of_eq rfl rfl }

protected theorem Busy.sendAck (h : Busy P out delivered loose s) (n : Bool) :
    Busy P out delivered loose (sendAck P n s) := h.emit (message_ne_nil _ _)

protected theorem Busy.sendReset (h : Busy P out delivered loose s) (chan : Byte) :
    Busy P out delivered loose (sendReset P chan s) := h.emit (message_ne_nil _ _)

protected theorem Busy.emitFrame (h : Busy P out delivered loose s) (i : Nat) :
    Busy P out delivered loose (emitFrame P i s) := h.emit (message_ne_nil _ _)

protected theorem Busy.accClear (h : Busy P out delivered loose s) :
    Busy P out delivered loose (accClear s) :=
  { h with
    accLen_le := Nat.zero_le _
    overflow_full := fun ho => by simp at ho
    channel := h.channel_of_eq rfl rfl }

/-- A byte is accumulated only below the capacity, where nothing has overflowed (rule R35). -/
protected theorem Busy.accPush (h : Busy P out delivered loose s) (b : Byte)
    (hlt : s.accLen < P.accCap) : Busy P out delivered loose (accPush P b s) :=
  { h with
    acc_canonical := Memory.wf_write _ _ h.acc_canonical
    accLen_le := hlt
    overflow_full := fun ho => absurd (h.overflow_full ho) (Nat.ne_of_lt hlt)
    channel := h.channel_of_eq rfl rfl }

theorem Busy.overflow (h : Busy P out delivered loose s) (hge : P.accCap ≤ s.accLen) :
    Busy P out delivered loose { s with accOvf := true } :=
  { h with
    overflow_full := fun _ => Nat.le_antisymm h.accLen_le hge
    channel := h.channel_of_eq rfl rfl }

/-! ### Resets -/

/-- A state whose pool is full and whose channels hold nothing is between commands. -/
theorem busy_of_pool_full (hstorage : StorageWf P s) (hregisters : RegistersWf P s)
    (hhdr : s.hdr.length = P.nbuf) (hch : s.ch.length = P.nchan)
    (hfree : s.free = List.range P.nbuf) (htxq : s.txq = []) (htx : s.txState.phase = false) (hrx : s.rxState.phase = false)
    (hchannel : ∀ c k, s.ch[c]? = some k → ChannelOk P c k s ∧ k.inq = [] ∧ k.asm = none)
    (hlen : LengthsWf P s) : Busy P [] [] [] s := by
  have hmem : ∀ k ∈ s.ch, k.inq = [] ∧ k.asm = none := fun k hk =>
    (List.getElem?_of_mem hk).elim fun c hc => (hchannel c k hc).2
  have hunread : unread s = [] := List.flatMap_eq_nil_iff.mpr fun k hk => (hmem k hk).1
  have hassembling : assembling s = [] :=
    List.filterMap_eq_nil_iff.mpr fun k hk => (hmem k hk).2
  exact {
    hstorage, hregisters with
    hdr_length := hhdr
    ch_length := hch
    one_holder := by simp [holders_eq, hfree, htxq, hunread, hassembling]
    idle_empty := fun _ => htxq
    head_sequence := fun hp => by simp [htx] at hp
    bounded := by simpa [htxq, hassembling] using P.rxReserve_lt.le
    queued_kind := by simp [htxq]
    unread_count := by simp [hunread, hrx]
    channel := fun c k hk => (hchannel c k hk).1
    lengths := hlen }

/-- A channel without slots is in order if its registers are. -/
theorem channelOk_of_empty (hinq : k.inq = []) (hasm : k.asm = none) (hrd : k.rdOff = 0)
    (hstat : k.cstat = .success ∨ k.cstat = .pending ∨ k.cstat = .peerDisconnected)
    (hreg : k.reg = false → k.cstate = .disc) (htimes : timeFits P k.cT0 ∧ timeFits P k.cTmo) :
    ChannelOk P c k s where
  stored_status := hstat
  rdOff_empty _ := hrd
  rdOff_head := by simp [hinq]
  assembly := by simp [hasm]
  unregistered_idle hr := ⟨hreg hr, hinq, hrd, hasm⟩
  times_fit := htimes
  unread_slot := by simp [hinq]

theorem linkResetChannel_ok (h : ChannelOk P c k s) :
    ChannelOk P c (linkResetChannel k) t ∧ (linkResetChannel k).inq = [] ∧
      (linkResetChannel k).asm = none := by
  unfold linkResetChannel
  split
  · exact ⟨channelOk_of_empty rfl rfl rfl (.inr (.inr rfl)) (fun _ => rfl) h.times_fit, rfl, rfl⟩
  · exact ⟨channelOk_of_empty rfl rfl rfl h.stored_status (fun hr => (h.unregistered_idle hr).1)
      h.times_fit, rfl, rfl⟩

/-- A link reset takes every slot back, wherever it is (rule R262). -/
protected theorem Busy.linkReset (h : Busy P out delivered loose s) (cause : ResetCause) :
    Busy P [] [] [] (linkReset P cause s) := by
  have hchannel : ∀ c k, (linkReset P cause s).ch[c]? = some k →
      ChannelOk P c k (linkReset P cause s) ∧ k.inq = [] ∧ k.asm = none := by
    intro c k hk
    rw [linkReset_ch, List.getElem?_map, Option.map_eq_some_iff] at hk
    obtain ⟨j, hj, rfl⟩ := hk
    exact linkResetChannel_ok (h.channel c j hj)
  refine busy_of_pool_full { h.toStorageWf with accLen_le := Nat.zero_le _ } ?_ h.hdr_length
    (by simp [h.ch_length]) rfl rfl rfl rfl hchannel h.lengths
  exact {
    h.toRegistersWf with
    channel_times_fit := fun k hk =>
      (List.getElem?_of_mem hk).elim fun c hc => (hchannel c k hc).1.times_fit
    overflow_full := fun ho => by simp at ho
    retries_le := fun _ => Nat.zero_le _ }

/-- A state with every reset value is well formed, whatever its wire queues and ports hold. -/
theorem wellFormed_of_resetValues (hr : ResetValues P s) (hstorage : StorageWf P s)
    (hnow : timeFits P s.now) (hmessages : ∀ m ∈ s.wireTx, m ≠ []) (hlen : LengthsWf P s) :
    WellFormedState P s := by
  refine busy_nil_iff.mp (busy_of_pool_full hstorage ?_ hr.hdr_length hr.ch_length hr.free hr.txq
    (by rw [hr.txState]; rfl) (by rw [hr.rxState]; rfl) ?_ hlen)
  · exact {
      now_fits := hnow
      txT0_fits := hr.txT0 ▸ timeFits_zero P
      channel_times_fit := fun k hk => by
        obtain ⟨-, -, -, -, -, -, hT0, hTmo⟩ := hr.ch k hk
        exact ⟨hT0 ▸ timeFits_zero P, hTmo ▸ timeFits_zero P⟩
      overflow_full := fun ho => by simp [hr.accOvf] at ho
      messages_nonempty := hmessages
      response := hr.rsp ▸ responseWf_zero
      retries_le := fun _ => by simp [hr.txRetries] }
  · intro c k hk
    obtain ⟨-, hstate, hstat, hinq, hrd, hasm, hT0, hTmo⟩ := hr.ch k (List.mem_of_getElem? hk)
    exact ⟨channelOk_of_empty hinq hasm hrd (.inl hstat) (fun _ => hstate)
      ⟨hT0 ▸ timeFits_zero P, hTmo ▸ timeFits_zero P⟩, hinq, hasm⟩

theorem resetValues_powerOn (P : Params) : ResetValues P (State.powerOn P) where
  hdr_length := by simp [State.powerOn]
  free := rfl
  txq := rfl
  txState := rfl
  txT0 := rfl
  txRetries := rfl
  rxState := rfl
  accLen := rfl
  accOvf := rfl
  ch_length := by simp [State.powerOn]
  ch k hk := by
    obtain rfl := List.eq_of_mem_replicate hk
    exact ⟨rfl, rfl, rfl, rfl, rfl, rfl, rfl, rfl⟩
  rsp := rfl

theorem resetValues_hardwareReset (P : Params) (s : State) : ResetValues P (hardwareReset P s) :=
  { resetValues_powerOn P with hdr_length := by simp [hardwareReset] }

/-- The unspecified byte counts are in their field's range (log entry 2). -/
theorem lengthsWf_powerUp {e : Nat} (h : s.hdr = (List.range P.nbuf).map (powerUpHeader P e)) :
    LengthsWf P s := by
  intro d hd
  rw [h] at hd
  obtain ⟨i, -, rfl⟩ := List.mem_map.mp hd
  exact P.powerUpLen_le e i

theorem powerOn_wellFormed (P : Params) : WellFormedState P (State.powerOn P) :=
  wellFormed_of_resetValues (resetValues_powerOn P) (storageWf_powerOn P) (timeFits_zero P)
    (fun m hm => by simp [State.powerOn] at hm) (lengthsWf_powerUp rfl)

theorem hardwareReset_wellFormed (h : WellFormedState P s) :
    WellFormedState P (hardwareReset P s) :=
  wellFormed_of_resetValues (resetValues_hardwareReset P s) ⟨rfl, rfl, Nat.zero_le _⟩
    h.registers.now_fits h.registers.messages_nonempty (lengthsWf_powerUp rfl)

/-! ### The transmit half -/

/-- A slot in hand joins the queue behind the frame in flight (rule R140). -/
theorem Busy.enqueue (h : Busy P (i :: out) delivered loose s) (hp : s.txState.phase = true)
    (hi : (slotOf i s).ctype ≠ .reset) :
    Busy P out delivered loose { s with txq := s.txq ++ [i] } :=
  { h with
    one_holder := h.perm_of_count fun x => by
      simp [holders, List.count_cons]
      omega
    idle_empty := fun hf => by simp [hp] at hf
    head_sequence := fun _ => by
      obtain ⟨j, rest, hq, ha⟩ := h.head_sequence hp
      exact ⟨j, rest ++ [i], by simp [hq], ha⟩
    bounded := by
      have hb :
          (s.txq ++ [i]).length + (assembling s).length + out.length + P.rxReserve ≤ P.nbuf := by
        have := h.bounded
        simp only [List.length_append, List.length_cons, List.length_nil] at this ⊢
        omega
      exact hb
    queued_kind := fun j hj => by
      rcases List.mem_append.mp hj with hj | hj
      · exact h.queued_kind j hj
      · exact List.mem_singleton.mp hj ▸ hi
    channel := h.channel_of_eq rfl rfl }

/-- An idle transmitter given a queue sends its head (rule R142). -/
protected theorem Busy.startSend {rest : List Nat} (h : Busy P (i :: rest ++ out) delivered loose s)
    (hp : s.txState.phase = false) (hkind : ∀ j ∈ i :: rest, (slotOf j s).ctype ≠ .reset) :
    Busy P out delivered loose (startSend P { s with txq := i :: rest }) := by
  have hq := h.idle_empty hp
  have hi : i < s.hdr.length := h.lt_of_mem (by simp)
  have h1 := h.setSlot (i := i) (d := { slotOf i s with atype := .data s.txState.seq }) (by simp)
    (h.len_le i)
  rw [startSend_of_cons (h := i) (rest := rest) rfl]
  exact {
    h1 with
    txT0_fits := timeFits_clip P s.now
    messages_nonempty := (h1.emitFrame i).messages_nonempty
    retries_le := fun _ => Nat.zero_le _
    one_holder := h.perm_of_count fun x => by
      simp [holders, List.count_cons, hq]
      omega
    idle_empty := fun hf => by simp [TxState.phase] at hf
    head_sequence := fun _ => ⟨i, rest, rfl, by
      exact congrArg SlotHeader.atype (slotOf_setSlot_self _ hi)⟩
    bounded := by
      have hb : (i :: rest).length + (assembling s).length + out.length + P.rxReserve ≤ P.nbuf := by
        have := h.bounded
        simp only [hq, List.length_nil, List.length_append] at this
        omega
      exact hb
    queued_kind := fun j hj => by
      have hctype :
          (slotOf j (setSlot i { slotOf i s with atype := .data s.txState.seq } s)).ctype =
            (slotOf j s).ctype := by
        by_cases hij : i = j
        · subst hij
          rw [slotOf_setSlot_self _ hi]
        · rw [slotOf_setSlot_ne _ _ hij]
      exact fun hr => hkind j hj (hctype.symm.trans hr)
    channel := h1.channel_of_eq rfl rfl }

/-- `Submit` takes a slot from the hand (rule R140). -/
protected theorem Busy.submit (h : Busy P (i :: out) delivered loose s)
    (hi : (slotOf i s).ctype ≠ .reset) : Busy P out delivered loose (submit P i s) := by
  cases hp : s.txState.phase with
  | true =>
    rw [submit_waiting i hp]
    exact h.enqueue hp hi
  | false =>
    rw [submit_idle i hp, h.idle_empty hp]
    exact h.startSend hp (by simpa using hi)

protected theorem Busy.submitAsm {asm : Option Nat}
    (h : Busy P (asm.toList ++ out) delivered loose s)
    (hi : ∀ a, asm = some a → (slotOf a s).ctype ≠ .reset) :
    Busy P out delivered loose (submitAsm P asm s) := by
  cases asm with
  | none => exact h
  | some a => exact h.submit (hi a rfl)

/-- An acknowledgment frees the head; the frames behind it are in hand until the next is sent (rule
R143). -/
theorem Busy.dequeue {j : Nat} {rest : List Nat} (h : Busy P out delivered loose s)
    (hq : s.txq = j :: rest) (n : Bool) :
    Busy P (rest ++ out) delivered loose
      { s with txq := [], free := s.free ++ [j], txState := .rdy n } :=
  { h with
    one_holder := h.perm_of_count fun x => by
      simp [holders, List.count_cons, hq]
      omega
    idle_empty := fun _ => rfl
    head_sequence := fun hp => by simp [TxState.phase] at hp
    bounded := by
      have hb : 0 + (assembling s).length + (rest ++ out).length + P.rxReserve ≤ P.nbuf := by
        have := h.bounded
        simp only [hq, List.length_cons, List.length_append] at this ⊢
        omega
      exact hb
    queued_kind := by simp
    channel := h.channel_of_eq rfl rfl }

/-- A registered channel without slots in motion may change its handshake state and status; it is not left
with an assembly buffer outside `CONNECTED`. -/
theorem Busy.setCState (h : Busy P out delivered loose s) (hk : s.ch[c]? = some (chanOf c s))
    {cst : CState} {st : Status} (hreg : (chanOf c s).reg = true)
    (hst : st = .success ∨ st = .pending ∨ st = .peerDisconnected)
    (hasm : cst = .connected ∨ (chanOf c s).asm = none) :
    Busy P out delivered loose (setChan c { chanOf c s with cstate := cst, cstat := st } s) := by
  have hok := h.channel c _ hk
  refine h.setChan hk { hok with
    stored_status := hst
    assembly := fun a ha => ?_
    unregistered_idle := idle_of_registered hreg } (.refl _) (.refl _)
  have ha : (chanOf c s).asm = some a := ha
  obtain ⟨-, hslot⟩ := hok.assembly a ha
  exact ⟨hasm.resolve_right (by simp [ha]), hslot⟩

theorem resolves_iff : resolves P c s = true ↔ c < P.nchan ∧ (chanOf c s).reg = true := by
  simp [resolves]

protected theorem Busy.chanCrAcked (h : Busy P out delivered loose s) (c : Nat) :
    Busy P out delivered loose (chanCrAcked P c s) := by
  unfold chanCrAcked
  split
  · rename_i hc
    obtain ⟨hres, -⟩ := Bool.and_eq_true_iff.mp hc
    obtain ⟨hlt, hreg⟩ := resolves_iff.mp hres
    exact h.setCState (h.chanOf_ok hlt).1 hreg (.inl rfl) (.inl rfl)
  · exact h

protected theorem Busy.chanDrAcked (h : Busy P out delivered loose s) (c : Nat) :
    Busy P out delivered loose (chanDrAcked P c s) := by
  unfold chanDrAcked
  split
  · rename_i hc
    obtain ⟨hres, hstate⟩ := Bool.and_eq_true_iff.mp hc
    obtain ⟨hlt, hreg⟩ := resolves_iff.mp hres
    obtain ⟨hk, hok⟩ := h.chanOf_ok hlt
    refine h.setCState hk hreg (.inl rfl) (.inr (hok.asm_eq_none ?_))
    simp [of_decide_eq_true hstate]
  · exact h

protected theorem Busy.ackEvent (h : Busy P out delivered loose s) (ct : CType) (c : Nat) :
    Busy P out delivered loose (ackEvent P ct c s) := by
  cases ct with
  | connreq => exact h.chanCrAcked c
  | discreq => exact h.chanDrAcked c
  | noop => exact h
  | reset => exact h

/-- The state with another `TXQ`. -/
def State.withQueue (q : List Nat) (s : State) : State := { s with txq := q }

/-- The channel event of an acknowledgment does not look at the queue. -/
theorem ackEvent_withQueue (ct : CType) (c : Nat) (q : List Nat) (hn : s.ch.length ≤ P.nchan) :
    ackEvent P ct c (s.withQueue q) = (ackEvent P ct c s).withQueue q := by
  rw [ackEvent_eq ct c hn, ackEvent_eq ct c (s := s.withQueue q) hn]
  rfl

/-- What is queued when the transmitter falls idle is sent (rule R143). -/
protected theorem Busy.sendNext {q : List Nat} (h : Busy P (q ++ out) delivered loose s)
    (hp : s.txState.phase = false) (hkind : ∀ j ∈ q, (slotOf j s).ctype ≠ .reset) :
    Busy P out delivered loose (sendNext P (s.withQueue q)) := by
  cases q with
  | nil =>
    have hs : s.withQueue [] = s := by rw [← h.idle_empty hp]; rfl
    rw [hs, sendNext, h.idle_empty hp]
    exact h
  | cons j rest => exact h.startSend hp hkind

/-- `TxAck` has an effect on the awaited sequence alone (rules R143, R145). -/
protected theorem Busy.txAck (h : Busy P out delivered loose s) (m : Bool) :
    Busy P out delivered loose (txAck P m s) := by
  cases hw : s.txState with
  | rdy n => rwa [txAck, hw]
  | wait n =>
    obtain ⟨j, rest, hq, -⟩ := h.head_sequence (by simp [hw, TxState.phase])
    by_cases hnm : n = m
    · subst hnm
      have h1 := h.dequeue hq (toggle n)
      have h2 := (h1.ackEvent (slotOf j s).ctype (slotOf j s).chan.toNat).sendNext
        (by simp [TxState.phase]) fun i hi => by
          simpa [slotOf] using h.queued_kind i (hq ▸ List.mem_cons_of_mem _ hi)
      rw [← ackEvent_withQueue _ _ _ h1.ch_length.le] at h2
      rw [txAck_matching hw hq]
      exact h2
    · simpa only [txAck, hw, hq, hnm, if_false] using h

/-! ### The receive half -/

/-- A new frame is accepted: it is delivered, and not yet acknowledged (rule R164). -/
theorem Busy.accept {n : Bool} (h : Busy P out delivered (i :: loose) s)
    (hr : s.rxState = .await n) : Busy P out (i :: delivered) loose { s with rxState := .bufret n } :=
  { h with
    one_holder := h.perm_of_count fun x => by
      simp [holders, List.count_cons]
      omega
    unread_count := by
      have := h.unread_count
      simp only [hr, RxState.phase, Bool.false_eq_true, if_false] at this
      have hc : (unread s).length + (i :: delivered).length = 1 := by
        simp only [List.length_cons]
        omega
      exact hc
    channel := h.channel_of_eq rfl rfl }

/-- Releasing a delivered frame acknowledges it (rule R166). -/
protected theorem Busy.channelRelease (h : Busy P out (i :: delivered) loose s) :
    Busy P out delivered loose (channelRelease P i s) := by
  have hcount := h.unread_count
  cases hr : s.rxState with
  | await n => simp [hr, RxState.phase] at hcount
  | bufret n =>
    simp only [hr, RxState.phase, if_true, List.length_cons] at hcount
    rw [channelRelease_bufret i hr]
    exact {
      (h.sendAck n) with
      one_holder := h.perm_of_count fun x => by
        simp [holders, List.count_cons]
        omega
      unread_count := (by omega : (unread s).length + delivered.length = 0)
      channel := h.channel_of_eq rfl rfl }

protected theorem Busy.releaseAll (l : List Nat) :
    ∀ {s : State}, Busy P out l loose s → Busy P out [] loose (releaseAll P l s) := by
  induction l with
  | nil => exact id
  | cons i l ih => exact fun h => ih h.channelRelease

protected theorem Busy.chanPeerCR (h : Busy P out delivered loose s) (hc : resolves P c s = true) :
    Busy P out delivered loose (chanPeerCR c s) := by
  obtain ⟨hlt, hreg⟩ := resolves_iff.mp hc
  unfold chanPeerCR
  split
  · exact h.setCState (h.chanOf_ok hlt).1 hreg (.inl rfl) (.inl rfl)
  · exact h.setCState (h.chanOf_ok hlt).1 hreg (.inl rfl) (.inl rfl)
  · exact h
  · exact h

/-- A registered channel may lose its assembly buffer. -/
theorem ChannelOk.dropAsm (h : ChannelOk P c k s) (hreg : k.reg = true) :
    ChannelOk P c { k with asm := none } s :=
  { h with
    assembly := by simp
    unregistered_idle := idle_of_registered hreg }

/-- A channel leaves `CONNECTED` and its assembly buffer with it. -/
theorem ChannelOk.detach (h : ChannelOk P c k s) {cst : CState} {st : Status} {t0 : Time}
    (hreg : k.reg = true) (hst : st = .success ∨ st = .pending ∨ st = .peerDisconnected)
    (ht0 : timeFits P t0) :
    ChannelOk P c { k with cstate := cst, cstat := st, cT0 := t0, asm := none } s :=
  { h with
    stored_status := hst
    assembly := by simp
    unregistered_idle := idle_of_registered hreg
    times_fit := ⟨ht0, h.times_fit.2⟩ }

protected theorem Busy.chanPeerDR (h : Busy P out delivered loose s) (hc : resolves P c s = true) :
    Busy P out delivered loose (chanPeerDR c s) := by
  obtain ⟨hlt, hreg⟩ := resolves_iff.mp hc
  obtain ⟨hk, hok⟩ := h.chanOf_ok hlt
  unfold chanPeerDR
  dsimp only
  split
  · refine Busy.releaseAsm (h.setChan hk ?_ (.refl _) (.refl _))
    exact hok.detach hreg (.inr (.inr rfl)) hok.times_fit.1
  all_goals exact h

/-- While an accepted frame is in hand no other is unread (rule R34). -/
theorem Busy.inq_eq_nil (h : Busy P out (i :: delivered) loose s) (hk : s.ch[c]? = some k) :
    k.inq = [] := by
  have hcount := h.unread_count
  have hunread : unread s = [] := by
    rw [← List.length_eq_zero_iff]
    rw [List.length_cons] at hcount
    split at hcount <;> omega
  exact List.flatMap_eq_nil_iff.mp hunread k (List.mem_of_getElem? hk)

/-- The accepted frame goes to its channel's queue if it holds payload the channel can take; otherwise it
is acknowledged at once (rule R165). -/
protected theorem Busy.deliver (h : Busy P [] [i] [] s)
    (hc : resolves P (slotOf i s).chan.toNat s = true) (hkind : (slotOf i s).ctype ≠ .reset) :
    Busy P [] [] [] (deliver P i s) := by
  obtain ⟨hlt, hreg⟩ := resolves_iff.mp hc
  obtain ⟨hk, hok⟩ := h.chanOf_ok hlt
  unfold deliver
  dsimp only
  split
  · rename_i hnoop
    split
    · rename_i haccept
      have hlen := of_decide_eq_true (Bool.and_eq_true_iff.mp haccept).1
      have hinq := h.inq_eq_nil hk
      refine h.setChan hk ?_ (.refl _) (by simp)
      exact {
        hok with
        rdOff_empty := by simp
        rdOff_head := fun j rest hj => by
          simp only [hinq, List.nil_append, List.cons.injEq] at hj
          rw [← hj.1, hok.rdOff_empty hinq]
          exact hlen
        unregistered_idle := idle_of_registered hreg
        unread_slot := fun j hj => by
          simp only [hinq, List.nil_append, List.mem_singleton] at hj
          exact hj ▸ ⟨hlen, hnoop⟩ }
    · exact h.channelRelease
  · exact (h.chanPeerCR hc).channelRelease
  · exact (h.chanPeerDR hc).channelRelease
  · rename_i hreset
    exact absurd hreset hkind

protected theorem Busy.sequenceDispatch (h : Busy P [] [] [i] s) (m : Bool)
    (hc : resolves P (slotOf i s).chan.toNat s = true) (hkind : (slotOf i s).ctype ≠ .reset) :
    Busy P [] [] [] (sequenceDispatch P i m s) := by
  unfold sequenceDispatch
  split
  · rename_i n hr
    split
    · exact (h.accept hr).deliver hc hkind
    · exact h.poolRelease.sendAck m
  · split
    · exact h.poolRelease
    · exact h.poolRelease.linkReset .desync

/-- Every branch of rule R163 accounts for the frame's slot. -/
protected theorem Busy.dispatch (h : Busy P [] [] [i] s) : Busy P [] [] [] (dispatch P i s) := by
  unfold dispatch
  dsimp only
  split
  · exact h.poolRelease.linkReset .peerReset
  · rename_i hkind
    split
    · rename_i m _
      exact h.poolRelease.txAck m
    · rename_i m _
      split
      · rename_i hc
        exact h.sequenceDispatch m hc hkind
      · exact h.poolRelease.sendReset _

protected theorem Busy.receive {v : Option RawFrame} (h : Busy P [] [] [] s)
    (hv : ∀ f, v = some f → f.pay.length ≤ P.maxpay) : Busy P [] [] [] (receive P v s) := by
  rcases receive_cases P v s with ⟨-, he⟩ | ⟨i, rest, hf, -, he⟩ | ⟨i, rest, f, hf, hfv, he⟩
  · exact he ▸ h.accClear
  · exact he ▸ (h.accClear.poolAcquire hf).poolRelease
  · exact he ▸ ((h.accClear.poolAcquire hf).storeFrame (by simp) (hv f hfv)).dispatch

/-- A frame that passed the checks has a payload that fits (rule R162). -/
theorem length_le_of_validate {e : List Byte} {ovf : Bool} {f : RawFrame}
    (h : validate P e ovf = some f) : f.pay.length ≤ P.maxpay := by
  unfold validate at h
  split at h
  · cases h
  · rename_i g hg
    unfold acceptTags at h
    split at h
    · cases h
      unfold checkMessage at hg
      split at hg
      · cases hg
      · split at hg
        · cases hg
        · exact (rawFrame_of_checkRaw hg).2
    · cases h

protected theorem Busy.rxByte (h : Busy P [] [] [] s) (b : Byte) :
    Busy P [] [] [] (rxByte P b s) := by
  by_cases he : b = P.eom
  · rw [he, rxByte_eom]
    exact h.receive fun f => length_le_of_validate
  by_cases hs : b = P.som
  · rw [hs, rxByte_som]
    exact h.accClear
  rcases Nat.lt_or_ge s.accLen P.accCap with hl | hl
  · rw [rxByte_data he hs hl]
    exact h.accPush b hl
  · rw [rxByte_full he hs hl]
    exact h.overflow hl

protected theorem Busy.rxBytes (bs : List Byte) :
    ∀ {s : State}, Busy P [] [] [] s → Busy P [] [] [] (rxBytes P bs s) := by
  induction bs with
  | nil => exact id
  | cons b bs ih => exact fun h => ih (h.rxByte b)

/-- A received frame is handled outside POLL as in it (rule R161). -/
protected theorem Busy.receiveFrame {f : RawFrame} (h : Busy P [] [] [] s)
    (hf : f.pay.length ≤ P.maxpay) : Busy P [] [] [] (receiveFrame P f s) := by
  refine h.receive fun g hg => ?_
  unfold acceptTags at hg
  split at hg
  · cases hg
    exact hf
  · cases hg

/-! ### The timers -/

/-- A retransmission below the ceiling (rule R144). -/
protected theorem Busy.retransmit (h : Busy P out delivered loose s) (hc : atCeiling P s = false) :
    Busy P out delivered loose (retransmit P s) := by
  unfold retransmit
  split
  · exact h
  · rename_i j _ _
    exact {
      (h.emitFrame j) with
      txT0_fits := timeFits_clip P s.now
      retries_le := bumpRetries_le hc
      channel := h.channel_of_eq rfl rfl }

protected theorem Busy.txTimer (h : Busy P [] [] [] s) : Busy P [] [] [] (txTimer P s) := by
  unfold txTimer
  split
  · split
    · exact h.linkReset .retryCeiling
    · rename_i hc
      exact h.retransmit (by simpa using hc)
  · exact h

protected theorem Busy.chanTimer (h : Busy P out delivered loose s) (hc : c < P.nchan) :
    Busy P out delivered loose (chanTimer P c s) := by
  obtain ⟨hk, hok⟩ := h.chanOf_ok hc
  have hdisc : (chanOf c s).reg = true → (chanOf c s).cstate ≠ .connected →
      Busy P out delivered loose
        (setChan c { chanOf c s with cstate := .disc, cstat := .pending } s) := fun hreg hstate =>
    h.setCState hk hreg (.inr (.inl rfl)) (.inr (hok.asm_eq_none hstate))
  unfold chanTimer
  dsimp only
  split
  · rename_i hreg
    split
    · rename_i hstate
      split
      · exact hdisc hreg (by simp [hstate])
      · exact h
    · rename_i hstate
      split
      · exact hdisc hreg (by simp [hstate])
      · exact h
    · exact h
    · exact h
  · exact h

protected theorem Busy.chanTimers (cs : List Nat) :
    ∀ {s : State}, Busy P out delivered loose s → (∀ c ∈ cs, c < P.nchan) →
      Busy P out delivered loose (chanTimers P cs s) := by
  induction cs with
  | nil => exact fun h _ => h
  | cons c cs ih =>
    exact fun h hc => ih (h.chanTimer (hc c List.mem_cons_self))
      fun d hd => hc d (List.mem_cons_of_mem _ hd)

/-! ### The link commands -/

protected theorem Busy.pollOp (h : Busy P [] [] [] s) : Busy P [] [] [] (pollOp P s) := by
  have hrx : Busy P [] [] [] { s with wireRx := [] } :=
    { h with channel := h.channel_of_eq rfl rfl }
  have htimers := Busy.chanTimers (List.range P.nchan) (hrx.rxBytes s.wireRx).txTimer
    fun c hc => List.mem_range.mp hc
  exact htimers.respond (.inl rfl)

/-! ### The channel commands -/

/-- A channel command answers `INVALID`, or acts on a channel of the table. -/
protected theorem Busy.chanCheck {b : Bool} (h : Busy P [] [] [] s)
    (ht : c < P.nchan → (b = true → (chanOf c s).reg = true) → Busy P [] [] [] t) :
    Busy P [] [] [] (chanCheck P c b s t) := by
  rcases chanCheck_cases P c b s t with he | ⟨hc, hreg, he⟩
  · exact he ▸ h.respond (.inr rfl)
  · rw [he]
    exact ht hc hreg

protected theorem Busy.openOp (h : Busy P [] [] [] s) (ch : Byte) :
    Busy P [] [] [] (openOp P ch s) := by
  refine h.chanCheck fun hc _ => ?_
  obtain ⟨hk, hok⟩ := h.chanOf_ok hc
  split
  · exact h.respond (.inr rfl)
  · rename_i hreg
    obtain ⟨-, hinq, -, hasm⟩ := hok.unregistered_idle (by simpa using hreg)
    refine Busy.respond (h.setChan hk ?_ ?_ ?_) (.inl rfl)
    · exact channelOk_of_empty hinq rfl rfl (.inl rfl) (fun _ => rfl) hok.times_fit
    · simp [hasm]
    · exact .refl _

theorem releaseAsm_setChan (asm : Option Nat) :
    releaseAsm asm (setChan c k s) = setChan c k (releaseAsm asm s) := by
  cases asm <;> rfl

theorem channelRelease_setChan (P : Params) (i : Nat) :
    channelRelease P i (setChan c k s) = setChan c k (channelRelease P i s) := by
  simp only [channelRelease, setChan_rxState]
  split <;> rfl

/-- Releasing slots and replacing a channel do not touch each other. -/
theorem releaseAll_setChan (P : Params) (l : List Nat) :
    ∀ s : State, releaseAll P l (setChan c k s) = setChan c k (releaseAll P l s) := by
  induction l with
  | nil => exact fun _ => rfl
  | cons i l ih => exact fun s => by simp only [releaseAll, channelRelease_setChan, ih]

/-- CLOSE takes every slot from its channel and gives it back (rule R192). -/
protected theorem Busy.closeOp (h : Busy P [] [] [] s) (ch : Byte) :
    Busy P [] [] [] (closeOp P ch s) := by
  refine h.chanCheck fun hc _ => ?_
  obtain ⟨hk, hok⟩ := h.chanOf_ok hc
  rw [← releaseAll_setChan, ← releaseAsm_setChan]
  refine Busy.respond (Busy.releaseAll _ (Busy.releaseAsm (h.setChan hk ?_ ?_ ?_))) (.inl rfl)
  · exact channelOk_of_empty rfl rfl rfl (.inl rfl) (fun _ => rfl) hok.times_fit
  · exact .refl _
  · simp

theorem startSend_setChan (P : Params) (c : Nat) (k : Channel) (s : State) :
    startSend P (setChan c k s) = setChan c k (startSend P s) := by
  simp only [startSend, setChan_txq]
  split <;> rfl

/-- Submitting a slot and replacing a channel do not touch each other. -/
theorem submit_setChan (P : Params) (i : Nat) :
    submit P i (setChan c k s) = setChan c k (submit P i s) := by
  cases hp : s.txState.phase with
  | true => rw [submit_waiting i hp, submit_waiting (s := setChan c k s) i hp]; rfl
  | false =>
    rw [submit_idle i hp, submit_idle (s := setChan c k s) i hp]
    exact startSend_setChan P c k { s with txq := s.txq ++ [i] }

theorem submitAsm_setChan (P : Params) (asm : Option Nat) :
    submitAsm P asm (setChan c k s) = setChan c k (submitAsm P asm s) := by
  cases asm with
  | none => rfl
  | some a => exact submit_setChan P a

/-- An acquired slot, given a header of its own, is in hand with that header. -/
theorem Busy.freshSlot (h : Busy P (i :: out) delivered loose s) (ch : Byte) (ct : CType) :
    Busy P (i :: out) delivered loose (setSlot i (freshHeader ch ct) s) ∧
      slotOf i (setSlot i (freshHeader ch ct) s) = freshHeader ch ct :=
  ⟨h.setSlot (by simp) (Nat.zero_le _), slotOf_setSlot_self _ (h.lt_of_mem (by simp))⟩

theorem chanOf_txAcquire (ha : txAcquire P s = some (i, t)) : chanOf c t = chanOf c s := by
  obtain ⟨-, rest, -, rfl⟩ := txAcquire_eq_some.mp ha
  rfl

protected theorem Busy.connectOp (h : Busy P [] [] [] s) (ch : Byte) (seconds : BitVec 16) :
    Busy P [] [] [] (connectOp P ch seconds s) := by
  refine h.chanCheck fun hc hreg => ?_
  split
  · exact h.respond (.inr rfl)
  · exact h.respond (.inl rfl)
  · exact h.respond (.inr rfl)
  · rename_i hstate
    split
    · exact h.respond (.inr rfl)
    · rename_i i t ha
      obtain ⟨h1, hfresh⟩ := (h.txAcquire ha).freshSlot ch .connreq
      obtain ⟨hk, hok⟩ := h1.chanOf_ok hc
      rw [chanOf_setSlot, chanOf_txAcquire ha] at hk hok
      have h2 := h1.setChan hk (k' := { chanOf ch.toNat s with
          cstate := .connPend, cstat := .pending, cT0 := nowOf P s, cTmo := connectTicks P seconds })
        { hok with
          stored_status := .inr (.inl rfl)
          assembly := fun a has => by simp [hok.asm_eq_none (by simp [hstate])] at has
          unregistered_idle := idle_of_registered (hreg rfl)
          times_fit := ⟨timeFits_clip P s.now, timeFits_connectTicks P seconds⟩ } (.refl _) (.refl _)
      exact (h2.submit (by rw [slotOf_setChan, hfresh]; simp [freshHeader])).respond (.inr rfl)

/-- DISCONNECT sends its channel's assembly buffer, then the request (rule R194). -/
protected theorem Busy.disconnectOp (h : Busy P [] [] [] s) (ch : Byte) :
    Busy P [] [] [] (disconnectOp P ch s) := by
  refine h.chanCheck fun hc hreg => ?_
  split
  · exact h.respond (.inl rfl)
  · exact h.respond (.inr rfl)
  · exact h.respond (.inr rfl)
  · split
    · exact h.respond (.inr rfl)
    · rename_i i t ha
      have h1 := h.txAcquire ha
      obtain ⟨hk, hok⟩ := h1.chanOf_ok hc
      rw [chanOf_txAcquire ha] at hk hok
      have h2 := h1.setChan hk (hok.detach (cst := .discPend) (st := .pending) (hreg rfl)
        (.inr (.inl rfl)) (timeFits_clip P s.now)) (.refl _) (.refl _)
      have h3 := h2.submitAsm fun a has => by
        obtain ⟨-, -, hnoop, -⟩ := hok.assembly a has
        rw [slotOf_setChan, hnoop]
        decide
      obtain ⟨h4, hfresh⟩ := h3.freshSlot ch .discreq
      rw [submitAsm_setChan] at h4 hfresh
      exact (h4.submit (by rw [hfresh]; simp [freshHeader])).respond (.inr rfl)

/-! ### The data commands -/

/-- A byte goes into a slot in hand, which then is its channel's assembly buffer, or is full and sent
(rule R195). -/
protected theorem Busy.appendByte {a : Nat} (h : Busy P [a] [] [] s) (hc : c < P.nchan) (v : Byte)
    (hreg : (chanOf c s).reg = true) (hstate : (chanOf c s).cstate = .connected)
    (hasm : (chanOf c s).asm = none) (hchan : (slotOf a s).chan.toNat = c)
    (hnoop : (slotOf a s).ctype = .noop) (hlen : (slotOf a s).len < P.maxpay) :
    Busy P [] [] [] (appendByte P c a v s) := by
  have h1 := (h.memWrite a (slotOf a s).len v).setSlot (i := a) (by simp)
    (d := { slotOf a s with len := (slotOf a s).len + 1 }) hlen
  have hslot : slotOf a (setSlot a { slotOf a s with len := (slotOf a s).len + 1 }
      (memWrite P a (slotOf a s).len v s)) = { slotOf a s with len := (slotOf a s).len + 1 } :=
    slotOf_setSlot_self _ (h.lt_of_mem (by simp))
  obtain ⟨hk, hok⟩ := h1.chanOf_ok hc
  rw [chanOf_setSlot, chanOf_memWrite] at hk hok
  unfold appendByte
  dsimp only
  split
  · rw [← submit_setChan]
    refine (h1.setChan hk (hok.dropAsm hreg) ?_ (.refl _)).submit ?_
    · simp [hasm]
    · rw [slotOf_setChan, hslot]
      simp [hnoop]
  · rename_i hfull
    refine h1.setChan hk ?_ (by simp [hasm]) (.refl _)
    exact { hok with
      assembly := fun b hb => by
        obtain rfl : a = b := Option.some.inj hb
        rw [hslot]
        exact ⟨hstate, hchan, hnoop, Nat.succ_pos _, Nat.lt_of_le_of_ne hlen hfull⟩
      unregistered_idle := idle_of_registered hreg }

/-- WRITE may take the assembly buffer from its channel first: it gives it back or submits it. -/
theorem appendByte_detached (hc : c < s.ch.length) (a : Nat) (v : Byte) :
    appendByte P c a v (setChan c { chanOf c s with asm := none } s) = appendByte P c a v s := by
  have hset : ∀ (k k' : Channel) (u : State), setChan c k' (setChan c k u) = setChan c k' u :=
    fun k k' u => by simp [setChan]
  have hmem : ∀ (k : Channel) (d : SlotHeader) (o : Nat),
      setSlot a d (memWrite P a o v (setChan c k s)) =
        setChan c k (setSlot a d (memWrite P a o v s)) :=
    fun _ _ _ => rfl
  simp only [appendByte, slotOf_setChan, chanOf_setChan_self _ hc, hmem, submit_setChan, hset]

protected theorem Busy.writeOp (h : Busy P [] [] [] s) (ch v : Byte) :
    Busy P [] [] [] (writeOp P ch v s) := by
  refine h.chanCheck fun hc hreg => ?_
  obtain ⟨hk, hok⟩ := h.chanOf_ok hc
  have hlt : ch.toNat < s.ch.length := h.ch_length ▸ hc
  split
  · exact h.respond (.inr rfl)
  · rename_i hstate
    have hstate := not_not.mp hstate
    split
    · rename_i a ha
      obtain ⟨-, hchan, hnoop, -, hlen⟩ := hok.assembly a ha
      rw [← appendByte_detached hlt]
      have h1 := h.setChan (out' := [a]) hk (hok.dropAsm (hreg rfl)) (by simp [ha]) (.refl _)
      have hself := chanOf_setChan_self { chanOf ch.toNat s with asm := none } hlt
      exact (h1.appendByte hc v (by rw [hself]; exact hreg rfl) (by rw [hself]; exact hstate)
        (by rw [hself]) hchan hnoop hlen).respond (.inl rfl)
    · rename_i ha
      split
      · exact h.respond (.inr rfl)
      · rename_i i t hacq
        obtain ⟨h1, hfresh⟩ := (h.txAcquire hacq).freshSlot ch .noop
        have hchan : chanOf ch.toNat (setSlot i (freshHeader ch .noop) t) = chanOf ch.toNat s := by
          rw [chanOf_setSlot, chanOf_txAcquire hacq]
        exact (h1.appendByte hc v (hchan ▸ hreg rfl) (hchan ▸ hstate) (hchan ▸ ha)
          (by rw [hfresh]; rfl) (by rw [hfresh]; rfl)
          (by rw [hfresh]; exact P.maxpay_pos)).respond (.inl rfl)

protected theorem Busy.flushOp (h : Busy P [] [] [] s) (ch : Byte) :
    Busy P [] [] [] (flushOp P ch s) := by
  refine h.chanCheck fun hc hreg => ?_
  obtain ⟨hk, hok⟩ := h.chanOf_ok hc
  split
  · exact h.respond (.inl rfl)
  · rename_i a ha
    obtain ⟨-, -, hnoop, -⟩ := hok.assembly a ha
    rw [← submit_setChan]
    have h1 := h.setChan (out' := [a]) hk (hok.dropAsm (hreg rfl)) (by simp [ha]) (.refl _)
    refine (h1.submit ?_).respond (.inl rfl)
    rw [slotOf_setChan, hnoop]
    decide

/-- READ moves within the head slot, or takes it from the queue and acknowledges it (rule R197). -/
protected theorem Busy.readOp (h : Busy P [] [] [] s) (ch : Byte) :
    Busy P [] [] [] (readOp P ch s) := by
  refine h.chanCheck fun hc hreg => ?_
  obtain ⟨hk, hok⟩ := h.chanOf_ok hc
  split
  · exact h.respond (.inr rfl)
  · rename_i i rest hinq
    refine Busy.respond ?_ (.inl rfl)
    split
    · refine Busy.channelRelease (h.setChan hk ?_ (.refl _) ?_)
      · exact { hok with
          rdOff_empty := fun _ => rfl
          rdOff_head := fun j q hj => (hok.unread_slot j (by
            have hj : rest = j :: q := hj
            simp [hinq, hj])).1
          unregistered_idle := idle_of_registered (hreg rfl)
          unread_slot := fun j hj => hok.unread_slot j (hinq ▸ List.mem_cons_of_mem _ hj) }
      · simp [hinq]
    · rename_i hlast
      refine h.setChan hk ?_ (.refl _) (.refl _)
      have hlt := hok.rdOff_head i rest hinq
      exact { hok with
        rdOff_empty := fun he => by simp [hinq] at he
        rdOff_head := fun j q hj => by
          obtain ⟨rfl, -⟩ := List.cons.inj (hinq.symm.trans hj)
          exact Nat.lt_of_le_of_ne hlt hlast
        unregistered_idle := idle_of_registered (hreg rfl) }

protected theorem Busy.peekOp (h : Busy P [] [] [] s) (ch : Byte) :
    Busy P [] [] [] (peekOp P ch s) := by
  refine h.chanCheck fun _ _ => ?_
  split
  · exact h.respond (.inr rfl)
  · exact h.respond (.inl rfl)

/-! ### Steps and events -/

/-- Every well-formed instruction, command or received frame, keeps a state well formed. -/
theorem exec_keeps_busy (h : Busy Config.params [] [] [] s) :
    ∀ i : Instr, i.wellFormed Config.params = true →
      ∃ t, exec i s = .next t ∧ Busy Config.params [] [] [] t
  | .nop, _ => ⟨_, rfl, h.respond (.inl rfl)⟩
  | .poll, _ => ⟨_, rfl, h.pollOp⟩
  | .openChan ch, _ => ⟨_, rfl, h.openOp ch⟩
  | .closeChan ch, _ => ⟨_, rfl, h.closeOp ch⟩
  | .connect ch sec, _ => ⟨_, rfl, h.connectOp ch sec⟩
  | .disconnect ch, _ => ⟨_, rfl, h.disconnectOp ch⟩
  | .write ch v, _ => ⟨_, rfl, h.writeOp ch v⟩
  | .flush ch, _ => ⟨_, rfl, h.flushOp ch⟩
  | .read ch, _ => ⟨_, rfl, h.readOp ch⟩
  | .peek ch, _ => ⟨_, rfl, h.peekOp ch⟩
  | .avail _, _ => ⟨_, rfl, h.chanCheck fun _ _ => h.respond (.inl rfl)⟩
  | .status _, _ => ⟨_, rfl, h.chanCheck fun _ _ => h.respond (.inl rfl)⟩
  | .linkstat, _ => ⟨_, rfl, h.respond (.inl rfl)⟩
  | .reserved0D, _ | .reserved0E0F _, _ | .reserved101F _, _ | .reserved203F _, _
  | .reserved407F _, _ | .reserved80FF _, _ => ⟨_, rfl, h.respond (.inr rfl)⟩
  | .frameReservedC2 _ _ _ _, hf | .frameReservedC3 _ _ _ _, hf | .frameReservedC4 _ _ _ _, hf
  | .frameReservedC5 _ _ _ _, hf | .frameReservedC6 _ _ _ _, hf | .frameReservedC7 _ _ _ _, hf
  | .frameReservedA2 _ _ _ _, hf | .frameReservedA3 _ _ _ _, hf | .frameReservedA4 _ _ _ _, hf
  | .frameReservedA5 _ _ _ _, hf | .frameReservedA6 _ _ _ _, hf | .frameReservedA7 _ _ _ _, hf
  | .ack0 _ _ _, hf | .ack1 _ _ _, hf =>
    ⟨_, rfl, h.receiveFrame (of_decide_eq_true (Bool.and_eq_true_iff.mp hf).1)⟩
  | .frameReset _ _ _, hf | .data0Noop _ _, hf | .data1Noop _ _, hf | .data0Connreq _ _, hf
  | .data1Connreq _ _, hf | .data0Discreq _ _, hf | .data1Discreq _ _, hf =>
    ⟨_, rfl, h.receiveFrame (of_decide_eq_true hf)⟩

/-- A command's fields fill their bits, so every command is well formed. -/
theorem decodeCommand_wellFormed (P : Params) (w : Word32) :
    (decodeCommand w).wellFormed P = true := by
  simp only [decodeCommand, apply_ite (Instr.wellFormed P)]
  simp only [Instr.wellFormed, ite_self]

/-- Every step keeps a state well formed. -/
theorem step_keeps_wellFormed (h : WellFormedState Config.params s) (hst : step s = .next t) :
    WellFormedState Config.params t := by
  obtain ⟨u, hu, hbusy⟩ := exec_keeps_busy (busy_nil_iff.mpr h) _
    (decodeCommand_wellFormed Config.params s.cmd)
  obtain rfl : u = t := Host.Outcome.next.inj (hu.symm.trans hst)
  exact busy_nil_iff.mp hbusy

/-- Every event keeps a state well formed. -/
theorem eventStep_keeps_wellFormed (e : Event) (h : WellFormedState Config.params s)
    (hst : eventStep e s = .next t) : WellFormedState Config.params t := by
  have hb := busy_nil_iff.mpr h
  cases e with
  | command cmd now =>
    refine step_keeps_wellFormed (busy_nil_iff.mp ?_) hst
    exact { hb with
      now_fits := timeFits_clip Config.params now
      channel := hb.channel_of_eq rfl rfl }
  | arrive bytes =>
    cases hst
    exact busy_nil_iff.mp { hb with channel := hb.channel_of_eq rfl rfl }
  | takeMessage =>
    cases hst
    exact busy_nil_iff.mp { hb with
      messages_nonempty := fun m hm => hb.messages_nonempty m (List.mem_of_mem_tail hm)
      channel := hb.channel_of_eq rfl rfl }
  | hardwareReset =>
    cases hst
    exact hardwareReset_wellFormed h

/-- Settles O51: by cases over the events. -/
theorem everyEventKeepsEveryStateInvariant : Obligations.EveryEventKeepsEveryStateInvariant :=
  ⟨powerOn_wellFormed Config.params, fun e _ _ => eventStep_keeps_wellFormed e⟩

end Sys2Proof.Machine
end

section
/-!
PROOFS. What every step keeps of the state (10_state.md). An instruction is taken apart once, into the
single updates of the state it is made of (`Updates`, `exec_updates`); an invariant is then kept by
every instruction if each update keeps it. The ownership rule R23 holds between two updates only with
the slots in hand counted in, so `Updates` says which slots are in hand before and after.
-/

namespace Sys2Proof.Machine

/-- The two parts of the state that only some instructions may touch. -/
structure Scope where
  /-- The receive half, `rxState` and the accumulator (rule R46). -/
  receives : Bool := false
  /-- The registration of a channel (rules R36, R207). -/
  registers : Bool := false

/-- What the spec lets an instruction touch: received frames, POLL, and the commands that release a
frame reach the receive half; OPEN and CLOSE reach the registrations. -/
def scopeOf : Instr → Scope
  | .openChan _ => { registers := true }
  | .closeChan _ => { receives := true, registers := true }
  | .nop | .connect _ _ | .disconnect _ | .write _ _ | .flush _ | .peek _ | .avail _ | .status _
  | .linkstat | .reserved0D | .reserved0E0F _ | .reserved101F _ | .reserved203F _ | .reserved407F _
  | .reserved80FF _ => {}
  | _ => { receives := true }

/-- The state an instruction's updates start from: POLL has taken the received bytes (log
entry 11). -/
def started : Instr → State → State
  | .poll, s => { s with wireRx := [] }
  | _, s => s

/-- The updates, each under what it needs, that lead from `s` with the slots `hand` in hand to another
state with other slots in hand. -/
inductive Updates (P : Params) (r : Scope) : List Nat → State → List Nat → State → Prop
  | refl {hand : List Nat} {s : State} : Updates P r hand s hand s
  | trans {hand hand' hand'' : List Nat} {s t u : State} :
      Updates P r hand s hand' t → Updates P r hand' t hand'' u → Updates P r hand s hand'' u
  /-- Slots pass between the pool, the transmit queue and the hand. -/
  | moveSlots {hand hand' free txq : List Nat} {s : State} :
      (free ++ txq ++ hand').Perm (s.free ++ s.txq ++ hand) →
        Updates P r hand s hand' { s with free := free, txq := txq }
  /-- A channel of the table is replaced, and its registration only within the scope; the slots it gives
  up or takes pass to or from the hand. -/
  | replaceChan {hand hand' : List Nat} {s : State} {c : Nat} {k : Channel} :
      c < P.nchan → k.idleIfUnregistered →
      (r.registers = false → k.reg = (chanOf c s).reg) →
      ((chanOf c s).idleIfUnregistered → (k.asm.toList ++ k.inq ++ hand').Perm
        ((chanOf c s).asm.toList ++ (chanOf c s).inq ++ hand)) →
        Updates P r hand s hand' (setChan c k s)
  | writeHeader {hand : List Nat} {s : State} (i : Nat) (d : SlotHeader) :
      Updates P r hand s hand (setSlot i d s)
  | writeByte {hand : List Nat} {s : State} (i o : Nat) (v : Byte) :
      Updates P r hand s hand (memWrite P i o v s)
  | transmitter {hand : List Nat} {s : State} (x : TxState) (t0 : Time) (n : BitVec 8) :
      Updates P r hand s hand { s with txState := x, txT0 := t0, txRetries := n }
  | send {hand : List Nat} {s : State} (m : List Byte) : Updates P r hand s hand (emit m s)
  | answer {hand : List Nat} {s : State} (st : Status) (d : BitVec 16) :
      Updates P r hand s hand (respond st d s)
  | receiver {hand : List Nat} {s : State} (x : RxState) :
      r.receives = true → Updates P r hand s hand { s with rxState := x }
  | clearAcc {hand : List Nat} {s : State} :
      r.receives = true → Updates P r hand s hand (accClear s)
  | pushAcc {hand : List Nat} {s : State} (b : Byte) :
      r.receives = true → s.accLen < P.accCap → Updates P r hand s hand (accPush P b s)
  | overflow {hand : List Nat} {s : State} :
      r.receives = true → Updates P r hand s hand { s with accOvf := true }
  /-- A link reset takes every slot back, wherever it is (rule R262). -/
  | resetLink {hand : List Nat} {s : State} (cause : ResetCause) :
      r.receives = true → Updates P r hand s [] (linkReset P cause s)

variable {P : Params} {r : Scope} {hand : List Nat} {s t : State} {c i : Nat}

/-! ### The pool and the channels -/

protected theorem Updates.poolAcquire {rest : List Nat} (hf : s.free = i :: rest) :
    Updates P r hand s (i :: hand) { s with free := rest } :=
  .moveSlots (txq := s.txq) (by rw [hf]; exact List.perm_middle)

protected theorem Updates.poolRelease (i : Nat) :
    Updates P r (i :: hand) s hand (poolRelease i s) :=
  .moveSlots (txq := s.txq) (by simpa using List.perm_middle.symm.append_left s.free)

protected theorem Updates.txAcquire (ha : txAcquire P s = some (i, t)) :
    Updates P r hand s (i :: hand) t := by
  obtain ⟨-, rest, hf, rfl⟩ := txAcquire_eq_some.mp ha
  exact .poolAcquire hf

protected theorem Updates.releaseAsm (asm : Option Nat) :
    Updates P r (asm.toList ++ hand) s hand (releaseAsm asm s) := by
  cases asm with
  | none => exact .refl
  | some a => exact .poolRelease a

/-- A registered channel may be replaced by any registered one, slot for slot. -/
theorem Updates.setRegistered {hand' : List Nat} {k : Channel} (hc : c < P.nchan)
    (hreg : (chanOf c s).reg = true) (hk : k.reg = true)
    (hperm : (k.asm.toList ++ k.inq ++ hand').Perm
      ((chanOf c s).asm.toList ++ (chanOf c s).inq ++ hand)) :
    Updates P r hand s hand' (setChan c k s) :=
  .replaceChan hc (idle_of_registered hk) (fun _ => hk.trans hreg.symm) fun _ => hperm

/-- A registered channel may change anything but its registration and its slots. -/
theorem Updates.setRegisters {k : Channel} (hc : c < P.nchan) (hreg : (chanOf c s).reg = true)
    (hk : k.reg = true) (hasm : k.asm = (chanOf c s).asm) (hinq : k.inq = (chanOf c s).inq) :
    Updates P r hand s hand (setChan c k s) :=
  .setRegistered hc hreg hk (by rw [hasm, hinq])

/-! ### The transmit half -/

protected theorem Updates.startSend : Updates P r hand s hand (startSend P s) := by
  unfold startSend
  split
  · exact .refl
  · exact ((Updates.writeHeader _ _).trans (.send _)).trans (.transmitter _ _ _)

protected theorem Updates.submit (i : Nat) : Updates P r (i :: hand) s hand (submit P i s) := by
  have henqueue : Updates P r (i :: hand) s hand { s with txq := s.txq ++ [i] } :=
    .moveSlots (free := s.free) (by simp)
  cases hp : s.txState.phase with
  | true => exact submit_waiting (P := P) i hp ▸ henqueue
  | false => exact submit_idle (P := P) i hp ▸ henqueue.trans .startSend

protected theorem Updates.submitAsm (asm : Option Nat) :
    Updates P r (asm.toList ++ hand) s hand (submitAsm P asm s) := by
  cases asm with
  | none => exact .refl
  | some a => exact .submit a

protected theorem Updates.ackEvent (ct : CType) (c : Nat) :
    Updates P r hand s hand (ackEvent P ct c s) := by
  cases ct with
  | noop | reset => exact .refl
  | connreq | discreq =>
    simp only [ackEvent, chanCrAcked, chanDrAcked]
    split
    · rename_i h
      obtain ⟨hc, hreg⟩ := resolves_iff.mp (Bool.and_eq_true_iff.mp h).1
      exact .setRegisters hc hreg hreg rfl rfl
    · exact .refl

protected theorem Updates.sendNext : Updates P r hand s hand (sendNext P s) := by
  unfold sendNext
  split
  · exact .refl
  · exact .startSend

/-- An acknowledgment moves the head of the queue to the pool (rule R143). -/
protected theorem Updates.txAck (m : Bool) : Updates P r hand s hand (txAck P m s) := by
  unfold txAck
  split
  · rename_i n h rest _ hq
    split
    · have hfree : Updates P r hand s hand (poolRelease h { s with txq := rest }) :=
        .moveSlots (by simp [hq])
      exact ((hfree.trans (.transmitter (.rdy (toggle m)) s.txT0 s.txRetries)).trans
        (.ackEvent _ _)).trans .sendNext
    · exact .refl
  all_goals exact .refl

protected theorem Updates.txTimer (hr : r.receives = true) :
    Updates P r [] s [] (txTimer P s) := by
  unfold txTimer
  split
  · split
    · exact .resetLink _ hr
    · unfold retransmit
      split
      · exact .refl
      · exact (Updates.send _).trans (.transmitter s.txState _ _)
  · exact .refl

/-! ### The receive half -/

protected theorem Updates.channelRelease (hr : r.receives = true) (i : Nat) :
    Updates P r (i :: hand) s hand (channelRelease P i s) := by
  unfold channelRelease
  dsimp only
  split
  · exact .poolRelease i
  · exact ((Updates.poolRelease i).trans (.send _)).trans (.receiver _ hr)

protected theorem Updates.releaseAll (hr : r.receives = true) (l : List Nat) :
    ∀ {s : State}, Updates P r (l ++ hand) s hand (releaseAll P l s) := by
  induction l with
  | nil => exact .refl
  | cons i l ih => exact (Updates.channelRelease hr i).trans ih

protected theorem Updates.chanPeerCR (hc : resolves P c s = true) :
    Updates P r hand s hand (chanPeerCR c s) := by
  obtain ⟨hlt, hreg⟩ := resolves_iff.mp hc
  unfold chanPeerCR
  split
  · exact .setRegisters hlt hreg hreg rfl rfl
  · exact .setRegisters hlt hreg hreg rfl rfl
  · exact .refl
  · exact .refl

/-- A disconnect request costs the channel its assembly buffer (rule R203). -/
protected theorem Updates.chanPeerDR (hc : resolves P c s = true) :
    Updates P r hand s hand (chanPeerDR c s) := by
  obtain ⟨hlt, hreg⟩ := resolves_iff.mp hc
  unfold chanPeerDR
  dsimp only
  split
  · refine Updates.trans ?_ (.releaseAsm _)
    refine .setRegistered hlt hreg hreg ?_
    simpa using List.perm_append_comm_assoc _ _ _
  all_goals exact .refl

/-- The frame's slot goes to its channel's queue or back to the pool (rule R165). -/
protected theorem Updates.deliver (hr : r.receives = true)
    (hc : resolves P (slotOf i s).chan.toNat s = true) (hkind : (slotOf i s).ctype ≠ .reset) :
    Updates P r (i :: hand) s hand (deliver P i s) := by
  obtain ⟨hlt, hreg⟩ := resolves_iff.mp hc
  unfold deliver
  dsimp only
  split
  · split
    · exact .setRegistered hlt hreg hreg (by simp)
    · exact .channelRelease hr i
  · exact (Updates.chanPeerCR hc).trans (.channelRelease hr i)
  · exact (Updates.chanPeerDR hc).trans (.channelRelease hr i)
  · rename_i hreset
    exact absurd hreset hkind

protected theorem Updates.sequenceDispatch (hr : r.receives = true) (m : Bool)
    (hc : resolves P (slotOf i s).chan.toNat s = true) (hkind : (slotOf i s).ctype ≠ .reset) :
    Updates P r [i] s [] (sequenceDispatch P i m s) := by
  unfold sequenceDispatch
  split
  · split
    · exact (Updates.receiver _ hr).trans (.deliver hr hc hkind)
    · exact (Updates.poolRelease i).trans (.send _)
  · split
    · exact .poolRelease i
    · exact (Updates.poolRelease i).trans (.resetLink .desync hr)

/-- Every branch of rule R163 accounts for the frame's slot. -/
protected theorem Updates.dispatch (hr : r.receives = true) (i : Nat) :
    Updates P r [i] s [] (dispatch P i s) := by
  unfold dispatch
  dsimp only
  split
  · exact (Updates.poolRelease i).trans (.resetLink .peerReset hr)
  · rename_i hkind
    split
    · exact (Updates.poolRelease i).trans (.txAck _)
    · split
      · rename_i hc
        exact .sequenceDispatch hr _ hc hkind
      · exact (Updates.poolRelease i).trans (.send _)

protected theorem Updates.storeBytes (i : Nat) (bs : List Byte) :
    ∀ {o : Nat} {s : State}, Updates P r hand s hand (storeBytes P i o bs s) := by
  induction bs with
  | nil => exact .refl
  | cons b bs ih => exact (Updates.writeByte i _ b).trans ih

protected theorem Updates.receive (hr : r.receives = true) (v : Option RawFrame) :
    Updates P r [] s [] (receive P v s) := by
  rcases receive_cases P v s with ⟨-, he⟩ | ⟨i, rest, hf, -, he⟩ | ⟨i, rest, f, hf, -, he⟩
  · exact he ▸ .clearAcc hr
  · exact he ▸ ((Updates.clearAcc hr).trans (.poolAcquire hf)).trans (.poolRelease i)
  · have hstore : Updates P r [i] { accClear s with free := rest } [i]
        (storeFrame P i f { accClear s with free := rest }) :=
      (Updates.writeHeader i _).trans (.storeBytes i f.pay)
    exact he ▸ (((Updates.clearAcc hr).trans (.poolAcquire hf)).trans hstore).trans (.dispatch hr i)

protected theorem Updates.rxByte (hr : r.receives = true) (b : Byte) :
    Updates P r [] s [] (rxByte P b s) := by
  unfold rxByte
  split
  · exact .receive hr _
  · split
    · exact .clearAcc hr
    · split
      · rename_i hl
        exact .pushAcc b hr hl
      · exact .overflow hr

protected theorem Updates.rxBytes (hr : r.receives = true) (bs : List Byte) :
    ∀ {s : State}, Updates P r [] s [] (rxBytes P bs s) := by
  induction bs with
  | nil => exact .refl
  | cons b bs ih => exact (Updates.rxByte hr b).trans ih

/-! ### The timers and POLL -/

protected theorem Updates.chanTimer (hc : c < P.nchan) :
    Updates P r hand s hand (chanTimer P c s) := by
  unfold chanTimer
  dsimp only
  split
  · rename_i hreg
    have hexpire : Updates P r hand s hand
        (setChan c { chanOf c s with cstate := .disc, cstat := .pending } s) :=
      .setRegisters hc hreg hreg rfl rfl
    split
    · split
      · exact hexpire
      · exact .refl
    · split
      · exact hexpire
      · exact .refl
    · exact .refl
    · exact .refl
  · exact .refl

protected theorem Updates.chanTimers (cs : List Nat) :
    ∀ {s : State}, (∀ c ∈ cs, c < P.nchan) → Updates P r hand s hand (chanTimers P cs s) := by
  induction cs with
  | nil => exact fun _ => .refl
  | cons c cs ih =>
    exact fun hc => (Updates.chanTimer (hc c List.mem_cons_self)).trans
      (ih fun d hd => hc d (List.mem_cons_of_mem _ hd))

protected theorem Updates.pollOp (hr : r.receives = true) :
    Updates P r [] { s with wireRx := [] } [] (pollOp P s) :=
  (((Updates.rxBytes hr s.wireRx).trans (.txTimer hr)).trans
    (.chanTimers (List.range P.nchan) fun _ hc => List.mem_range.mp hc)).trans (.answer _ _)

/-! ### The channel commands -/

/-- A channel command answers `INVALID`, or acts on a channel of the table. -/
protected theorem Updates.chanCheck {b : Bool}
    (h : c < P.nchan → (b = true → (chanOf c s).reg = true) → Updates P r [] s [] t) :
    Updates P r [] s [] (chanCheck P c b s t) := by
  rcases chanCheck_cases P c b s t with he | ⟨hc, hreg, he⟩
  · exact he ▸ .answer _ _
  · rw [he]
    exact h hc hreg

/-- OPEN registers a channel that, being unregistered, holds nothing (rules R36, R191). -/
protected theorem Updates.openOp (hr : r.registers = true) (ch : Byte) :
    Updates P r [] s [] (openOp P ch s) := by
  refine .chanCheck fun hc _ => ?_
  split
  · exact .answer _ _
  · rename_i hreg
    refine Updates.trans (.replaceChan hc (idle_of_registered rfl) (fun h => by simp [hr] at h) ?_)
      (.answer _ _)
    intro hidle
    obtain ⟨-, -, -, hasm⟩ := hidle (by simpa using hreg)
    simp [hasm]

/-- CLOSE takes every slot from its channel and gives it back (rule R192). -/
protected theorem Updates.closeOp (hreceives : r.receives = true) (hregisters : r.registers = true)
    (ch : Byte) : Updates P r [] s [] (closeOp P ch s) := by
  refine .chanCheck fun hc _ => ?_
  rw [← releaseAll_setChan, ← releaseAsm_setChan]
  refine Updates.trans (.replaceChan hc (fun _ => ⟨rfl, rfl, rfl, rfl⟩)
    (fun h => by simp [hregisters] at h) fun _ => ?_)
    (((Updates.releaseAsm _).trans (.releaseAll hreceives _)).trans (.answer _ _))
  simp

protected theorem Updates.connectOp (ch : Byte) (seconds : BitVec 16) :
    Updates P r [] s [] (connectOp P ch seconds s) := by
  refine .chanCheck fun hc hreg => ?_
  split
  · exact .answer _ _
  · exact .answer _ _
  · exact .answer _ _
  · split
    · exact .answer _ _
    · rename_i i t ha
      have hchan : chanOf ch.toNat (setSlot i (freshHeader ch .connreq) t) = chanOf ch.toNat s := by
        rw [chanOf_setSlot, chanOf_txAcquire ha]
      have hfresh : Updates P r [] s [i] (setSlot i (freshHeader ch .connreq) t) :=
        (Updates.txAcquire ha).trans (.writeHeader i _)
      refine (hfresh.trans ?_).trans ((Updates.submit i).trans (.answer _ _))
      exact .setRegisters hc (hchan ▸ hreg rfl) (hreg rfl) (hchan ▸ rfl) (hchan ▸ rfl)

/-- DISCONNECT sends its channel's assembly buffer, then the request (rule R194). -/
protected theorem Updates.disconnectOp (ch : Byte) :
    Updates P r [] s [] (disconnectOp P ch s) := by
  refine .chanCheck fun hc hreg => ?_
  split
  · exact .answer _ _
  · exact .answer _ _
  · exact .answer _ _
  · split
    · exact .answer _ _
    · rename_i i t ha
      have hchan := chanOf_txAcquire (c := ch.toNat) ha
      have hdetach : Updates P r [i] t ((chanOf ch.toNat s).asm.toList ++ [i])
          (setChan ch.toNat { chanOf ch.toNat s with
            cstate := .discPend, cstat := .pending, cT0 := nowOf P s, asm := none } t) := by
        refine .setRegistered hc (hchan ▸ hreg rfl) (hreg rfl) ?_
        simpa [hchan] using List.perm_append_comm_assoc _ _ _
      have hsend := (hdetach.trans (.submitAsm _)).trans (.writeHeader i (freshHeader ch .discreq))
      rw [submitAsm_setChan] at hsend
      exact ((Updates.txAcquire ha).trans hsend).trans ((Updates.submit i).trans (.answer _ _))

/-! ### The data commands -/

/-- The slot a byte goes into is in hand or its channel's assembly buffer; it ends there or is sent
(rule R195). -/
protected theorem Updates.appendByte {a : Nat} (hc : c < P.nchan) (hreg : (chanOf c s).reg = true)
    (ha : (chanOf c s).asm.toList ++ hand = [a]) (v : Byte) :
    Updates P r hand s [] (appendByte P c a v s) := by
  have hslot : Updates P r hand s hand (setSlot a { slotOf a s with len := (slotOf a s).len + 1 }
      (memWrite P a (slotOf a s).len v s)) :=
    (Updates.writeByte a _ v).trans (.writeHeader a _)
  have hperm : ((chanOf c s).inq ++ [a]).Perm
      ((chanOf c s).asm.toList ++ ((chanOf c s).inq ++ hand)) := by
    rw [← ha]
    exact List.perm_append_comm_assoc _ _ _
  unfold appendByte
  dsimp only
  split
  · rw [← submit_setChan]
    refine hslot.trans (Updates.trans ?_ (.submit a))
    exact .setRegistered hc hreg hreg (by simpa using hperm)
  · exact hslot.trans (.setRegistered hc hreg hreg
      (by simpa using (List.perm_append_singleton a _).symm.trans hperm))

protected theorem Updates.writeOp (ch v : Byte) : Updates P r [] s [] (writeOp P ch v s) := by
  refine .chanCheck fun hc hreg => ?_
  split
  · exact .answer _ _
  · split
    · rename_i a ha
      exact (Updates.appendByte hc (hreg rfl) (by simp [ha]) v).trans (.answer _ _)
    · rename_i ha
      split
      · exact .answer _ _
      · rename_i i t hacq
        have hchan : chanOf ch.toNat (setSlot i (freshHeader ch .noop) t) = chanOf ch.toNat s := by
          rw [chanOf_setSlot, chanOf_txAcquire hacq]
        exact (((Updates.txAcquire hacq).trans (.writeHeader i _)).trans
          (.appendByte hc (hchan ▸ hreg rfl) (by simp [hchan, ha]) v)).trans (.answer _ _)

protected theorem Updates.flushOp (ch : Byte) : Updates P r [] s [] (flushOp P ch s) := by
  refine .chanCheck fun hc hreg => ?_
  split
  · exact .answer _ _
  · rename_i a ha
    rw [← submit_setChan]
    refine Updates.trans ?_ ((Updates.submit a).trans (.answer _ _))
    refine .setRegistered hc (hreg rfl) (hreg rfl) ?_
    simp [ha]

/-- READ of a slot's last byte takes the slot from the queue and releases it (rule R197). -/
protected theorem Updates.readOp (hr : r.receives = true) (ch : Byte) :
    Updates P r [] s [] (readOp P ch s) := by
  refine .chanCheck fun hc hreg => ?_
  split
  · exact .answer _ _
  · rename_i i rest hinq
    refine Updates.trans ?_ (.answer _ _)
    split
    · refine Updates.trans ?_ (.channelRelease hr i)
      refine .setRegistered hc (hreg rfl) (hreg rfl) ?_
      simpa [hinq] using (List.perm_append_singleton i rest).append_left _
    · exact .setRegisters hc (hreg rfl) (hreg rfl) rfl rfl

protected theorem Updates.peekOp (ch : Byte) : Updates P r [] s [] (peekOp P ch s) := by
  refine .chanCheck fun _ _ => ?_
  split <;> exact .answer _ _

/-- What an instruction can do: updates within its scope, which leave no slot in hand. -/
theorem exec_updates (s : State) : ∀ i : Instr, ∃ t, exec i s = .next t ∧
    Updates Config.params (scopeOf i) [] (started i s) [] t
  | .poll => ⟨_, rfl, .pollOp rfl⟩
  | .openChan ch => ⟨_, rfl, .openOp rfl ch⟩
  | .closeChan ch => ⟨_, rfl, .closeOp rfl rfl ch⟩
  | .connect ch sec => ⟨_, rfl, .connectOp ch sec⟩
  | .disconnect ch => ⟨_, rfl, .disconnectOp ch⟩
  | .write ch v => ⟨_, rfl, .writeOp ch v⟩
  | .flush ch => ⟨_, rfl, .flushOp ch⟩
  | .read ch => ⟨_, rfl, .readOp rfl ch⟩
  | .peek ch => ⟨_, rfl, .peekOp ch⟩
  | .avail _ | .status _ => ⟨_, rfl, .chanCheck fun _ _ => .answer _ _⟩
  | .nop | .linkstat | .reserved0D | .reserved0E0F _ | .reserved101F _ | .reserved203F _
  | .reserved407F _ | .reserved80FF _ => ⟨_, rfl, .answer _ _⟩
  | .frameReservedC2 _ _ _ _ | .frameReservedC3 _ _ _ _ | .frameReservedC4 _ _ _ _
  | .frameReservedC5 _ _ _ _ | .frameReservedC6 _ _ _ _ | .frameReservedC7 _ _ _ _
  | .frameReservedA2 _ _ _ _ | .frameReservedA3 _ _ _ _ | .frameReservedA4 _ _ _ _
  | .frameReservedA5 _ _ _ _ | .frameReservedA6 _ _ _ _ | .frameReservedA7 _ _ _ _
  | .ack0 _ _ _ | .ack1 _ _ _ | .frameReset _ _ _ | .data0Noop _ _ | .data1Noop _ _
  | .data0Connreq _ _ | .data1Connreq _ _ | .data0Discreq _ _ | .data1Discreq _ _ =>
    ⟨_, rfl, .receive rfl _⟩

/-- The updates of the instruction that led from `s` to `t`. -/
theorem updates_of_exec {i : Instr} (h : exec i s = .next t) :
    Updates Config.params (scopeOf i) [] (started i s) [] t := by
  obtain ⟨u, hu, hup⟩ := exec_updates s i
  obtain rfl : u = t := Host.Outcome.next.inj (hu.symm.trans h)
  exact hup

theorem started_eq (i : Instr) (s : State) :
    started i s = { s with wireRx := (started i s).wireRx } := by
  cases i <;> rfl

theorem started_of_ne_poll {j : Instr} (h : j ≠ .poll) : started j s = s := by
  cases j with
  | poll => exact absurd rfl h
  | _ => rfl

/-! ### Storage (rule R35, log entry 6) -/

/-- Every update keeps the memories canonical and the accumulator within its capacity. -/
theorem Updates.storage {hand' : List Nat} (hu : Updates P r hand s hand' t) (h : StorageWf P s) :
    StorageWf P t := by
  induction hu with
  | trans _ _ ih ih' => exact ih' (ih h)
  | writeByte i o v => exact { h with pay_canonical := memWrite_wf P i o v _ h.pay_canonical }
  | clearAcc | resetLink => exact { h with accLen_le := Nat.zero_le _ }
  | pushAcc b _ hlt => exact { h with
      acc_canonical := Memory.wf_write _ _ h.acc_canonical
      accLen_le := hlt }
  | refl | moveSlots | replaceChan | writeHeader | transmitter | send | answer | receiver
  | overflow => exact { h with }

/-- Settles O48: a step is updates, and each of them keeps the storage in order. -/
theorem stepKeepsStorageCanonical : Obligations.StepKeepsStorageCanonical := by
  intro s t h hst
  refine (updates_of_exec hst).storage ?_
  rw [started_eq]
  exact { h with }

/-! ### Ownership (rules R23, R36) -/

/-- The ownership invariant in the middle of an instruction, with the slots in hand. -/
structure Owned (P : Params) (hand : List Nat) (s : State) : Prop where
  hdr_length : s.hdr.length = P.nbuf
  ch_length : s.ch.length = P.nchan
  one_holder : (holders s ++ hand).Perm (List.range P.nbuf)
  unregistered_idle : ∀ k ∈ s.ch, k.idleIfUnregistered

/-- Between instructions no slot is in hand. -/
theorem owned_nil_iff : Owned P [] s ↔ OwnershipWf P s := by
  constructor
  · rintro ⟨hhdr, hch, hperm, hidle⟩
    exact ⟨hhdr, hch, by simpa using hperm, hidle⟩
  · rintro ⟨hhdr, hch, hperm, hidle⟩
    exact ⟨hhdr, hch, by simpa using hperm, hidle⟩

theorem Owned.moveSlots {free txq hand' : List Nat} (h : Owned P hand s)
    (hperm : (free ++ txq ++ hand').Perm (s.free ++ s.txq ++ hand)) :
    Owned P hand' { s with free := free, txq := txq } :=
  { h with
    one_holder := by
      refine List.Perm.trans (List.perm_iff_count.mpr fun x => ?_) h.one_holder
      have := hperm.count_eq x
      simp only [holders, List.count_append] at this ⊢
      omega }

/-- A channel is replaced, and what it held with it. -/
theorem Owned.setChan {hand' : List Nat} {k : Channel} (h : Owned P hand s) (hc : c < P.nchan)
    (hidle : k.idleIfUnregistered)
    (hperm : (chanOf c s).idleIfUnregistered → (k.asm.toList ++ k.inq ++ hand').Perm
      ((chanOf c s).asm.toList ++ (chanOf c s).inq ++ hand)) :
    Owned P hand' (setChan c k s) := by
  have hk := getElem?_chanOf (h.ch_length ▸ hc)
  exact {
    h with
    ch_length := by simp [h.ch_length]
    one_holder := by
      refine List.Perm.trans (List.perm_iff_count.mpr fun x => ?_) h.one_holder
      have hunread := (unread_setChan_perm k hk).count_eq x
      have hassembling := (assembling_setChan_perm k hk).count_eq x
      have hheld := (hperm (h.unregistered_idle _ (List.mem_of_getElem? hk))).count_eq x
      simp only [holders_eq, List.count_append, setChan_free, setChan_txq]
        at hunread hassembling hheld ⊢
      omega
    unregistered_idle := fun j hj => by
      rcases List.mem_or_eq_of_mem_set hj with hj | rfl
      · exact h.unregistered_idle j hj
      · exact hidle }

theorem linkResetChannel_idle {k : Channel} (h : k.idleIfUnregistered) :
    (linkResetChannel k).idleIfUnregistered := by
  unfold linkResetChannel
  split
  · exact fun _ => ⟨rfl, rfl, rfl, rfl⟩
  · exact fun hr => ⟨(h hr).1, rfl, rfl, rfl⟩

theorem linkResetChannel_inq (k : Channel) : (linkResetChannel k).inq = [] := by
  unfold linkResetChannel
  split <;> rfl

theorem linkResetChannel_asm (k : Channel) : (linkResetChannel k).asm = none := by
  unfold linkResetChannel
  split <;> rfl

/-- After a link reset the pool holds every slot and nothing else holds any (rule R262). -/
theorem holders_linkReset (cause : ResetCause) :
    holders (linkReset P cause s) = List.range P.nbuf := by
  simp [holders, List.flatMap_map, List.filterMap_map, linkResetChannel_inq, linkResetChannel_asm]

theorem Owned.linkReset (h : Owned P hand s) (cause : ResetCause) :
    Owned P [] (linkReset P cause s) where
  hdr_length := h.hdr_length
  ch_length := by simp [h.ch_length]
  one_holder := by simp [holders_linkReset]
  unregistered_idle k hk := by
    obtain ⟨j, hj, rfl⟩ := List.mem_map.mp hk
    exact linkResetChannel_idle (h.unregistered_idle j hj)

/-- Every update passes on each slot to exactly one holder. -/
theorem Updates.owned {hand' : List Nat} (hu : Updates P r hand s hand' t) (h : Owned P hand s) :
    Owned P hand' t := by
  induction hu with
  | trans _ _ ih ih' => exact ih' (ih h)
  | moveSlots hperm => exact h.moveSlots hperm
  | replaceChan hc hidle _ hperm => exact h.setChan hc hidle hperm
  | resetLink cause => exact h.linkReset cause
  | writeHeader => exact { h with hdr_length := by simp [h.hdr_length] }
  | refl | writeByte | transmitter | send | answer | receiver | clearAcc | pushAcc
  | overflow => exact { h with }

/-- Settles O49: a step is updates that begin and end with no slot in hand. -/
theorem stepKeepsSlotOwnership : Obligations.StepKeepsSlotOwnership := by
  intro s t h hst
  refine owned_nil_iff.mp ((updates_of_exec hst).owned (owned_nil_iff.mpr ?_))
  rw [started_eq]
  exact { h with }

/-! ### Registration (rules R36, R207) -/

theorem reg_setChan {k : Channel} (hk : k.reg = (chanOf c s).reg) (d : Nat) :
    (chanOf d (setChan c k s)).reg = (chanOf d s).reg := by
  by_cases hd : c = d
  · subst hd
    rcases Nat.lt_or_ge c s.ch.length with hlt | hge
    · rw [chanOf_setChan_self k hlt, hk]
    · rw [setChan, List.set_eq_of_length_le hge]
  · rw [chanOf_setChan_ne k s hd]

theorem reg_linkReset (cause : ResetCause) (d : Nat) :
    (chanOf d (linkReset P cause s)).reg = (chanOf d s).reg := by
  have hreg : ∀ k, (linkResetChannel k).reg = k.reg := fun k => by
    unfold linkResetChannel
    split <;> rfl
  simp only [chanOf, linkReset_ch, List.getD_eq_getElem?_getD, List.getElem?_map]
  cases s.ch[d]? with
  | none => rfl
  | some k => exact hreg k

/-- No update outside the registrations' scope touches one. -/
theorem Updates.reg_eq {hand' : List Nat} (hu : Updates P r hand s hand' t)
    (hr : r.registers = false) (d : Nat) : (chanOf d t).reg = (chanOf d s).reg := by
  induction hu with
  | trans _ _ ih ih' => exact ih'.trans ih
  | replaceChan _ _ hreg _ => exact reg_setChan (hreg hr) d
  | resetLink cause => exact reg_linkReset cause d
  | refl | moveSlots | writeHeader | writeByte | transmitter | send | answer | receiver | clearAcc
  | pushAcc | overflow => rfl

/-- OPEN and CLOSE alone reach the registrations. -/
theorem scopeOf_registers {j : Instr} (hopen : ∀ ch, j ≠ .openChan ch)
    (hclose : ∀ ch, j ≠ .closeChan ch) : (scopeOf j).registers = false := by
  cases j with
  | openChan ch => exact absurd rfl (hopen ch)
  | closeChan ch => exact absurd rfl (hclose ch)
  | _ => rfl

/-- Settles O53: every other instruction's updates keep each registration. -/
theorem onlyOpenAndCloseChangeRegistration : Obligations.OnlyOpenAndCloseChangeRegistration := by
  intro i s t hst hopen hclose c
  rw [(updates_of_exec hst).reg_eq (scopeOf_registers hopen hclose) c, started_eq]
  rfl

/-! ### The ports and the receive half (rules R44 to R46) -/

/-- The input ports and the reset counter are unchanged, no received byte is taken, and no message is
taken back. -/
structure PortsKept (s t : State) : Prop where
  cmd : t.cmd = s.cmd
  now : t.now = s.now
  epoch : t.epoch = s.epoch
  wireRx : t.wireRx = s.wireRx
  wireTx : s.wireTx <+: t.wireTx

/-- Every update keeps the ports, but for the messages it sends. -/
theorem Updates.ports {hand' : List Nat} (hu : Updates P r hand s hand' t) : PortsKept s t := by
  induction hu with
  | trans _ _ h h' =>
    exact ⟨h'.cmd.trans h.cmd, h'.now.trans h.now, h'.epoch.trans h.epoch,
      h'.wireRx.trans h.wireRx, h.wireTx.trans h'.wireTx⟩
  | send m => exact ⟨rfl, rfl, rfl, rfl, [m], rfl⟩
  | refl | moveSlots | replaceChan | writeHeader | writeByte | transmitter | answer | receiver
  | clearAcc | pushAcc | overflow | resetLink => exact ⟨rfl, rfl, rfl, rfl, [], List.append_nil _⟩

/-- No update outside the receive half's scope touches it. -/
theorem Updates.receiveHalf {hand' : List Nat} (hu : Updates P r hand s hand' t)
    (hr : r.receives = false) :
    t.rxState = s.rxState ∧ t.acc = s.acc ∧ t.accLen = s.accLen ∧ t.accOvf = s.accOvf := by
  induction hu with
  | trans _ _ ih ih' =>
    obtain ⟨hrx, hacc, hlen, hovf⟩ := ih
    obtain ⟨hrx', hacc', hlen', hovf'⟩ := ih'
    exact ⟨hrx'.trans hrx, hacc'.trans hacc, hlen'.trans hlen, hovf'.trans hovf⟩
  | receiver _ h | clearAcc h | pushAcc _ h _ | overflow h | resetLink _ h => simp [hr] at h
  | refl | moveSlots | replaceChan | writeHeader | writeByte | transmitter | send
  | answer => exact ⟨rfl, rfl, rfl, rfl⟩

/-- Of the commands, POLL, READ and CLOSE alone reach the receive half. -/
theorem scopeOf_receives {j : Instr} (hcommand : isCommand P j) (hpoll : j ≠ .poll)
    (hread : ∀ ch, j ≠ .read ch) (hclose : ∀ ch, j ≠ .closeChan ch) :
    (scopeOf j).receives = false := by
  obtain ⟨w, hw⟩ := hcommand
  cases j with
  | poll => exact absurd rfl hpoll
  | read ch => exact absurd rfl (hread ch)
  | closeChan ch => exact absurd rfl (hclose ch)
  | openChan | nop | connect | disconnect | write | flush | peek | avail | status | linkstat
  | reserved0D | reserved0E0F | reserved101F | reserved203F | reserved407F | reserved80FF => rfl
  | _ => simp [encode] at hw

/-- Settles O55: a command's updates keep the ports, and outside its scope the receive half. -/
theorem portsAndReceiveHalfChangeOnlyAsStated :
    Obligations.PortsAndReceiveHalfChangeOnlyAsStated := by
  intro i s t hst
  have hu := updates_of_exec hst
  have hports := hu.ports
  refine ⟨?_, ?_, ?_, ?_, fun hpoll => ?_, fun hcommand hpoll hread hclose => ?_⟩
  · rw [hports.cmd, started_eq]
  · rw [hports.now, started_eq]
  · rw [hports.epoch, started_eq]
  · obtain ⟨ms, hms⟩ := hports.wireTx
    rw [started_eq] at hms
    exact ⟨ms, hms.symm⟩
  · rw [hports.wireRx, started_of_ne_poll hpoll]
  · have hkept := hu.receiveHalf (scopeOf_receives hcommand hpoll hread hclose)
    rwa [started_of_ne_poll hpoll] at hkept

/-! ### Well-formed states -/

/-- Settles O47: the reset state is the power-on state of the machine's parameters. -/
theorem resetStateIsWellFormed : Obligations.ResetStateIsWellFormed :=
  powerOn_wellFormed Config.params

/-- Settles O50: by `step_keeps_wellFormed`, operation by operation. -/
theorem stepKeepsEveryStateInvariant : Obligations.StepKeepsEveryStateInvariant :=
  fun _ _ => step_keeps_wellFormed

end Sys2Proof.Machine
end

section
/-!
PROOFS. What the block stores and reads back (20_memory.md). The long statement is R74's: a frame in
flight is immutable. No slot that a command or a received frame writes is queued, since it was free or an
assembly buffer before; so the frame's message changes only once the frame has left `TXQ`, and a slot that
leaves `TXQ` in a POLL does not come back to it there.
-/

namespace Sys2Proof.Machine

/-! ### Observations (rule R66) -/

/-- A command that answers from the state and does nothing else; what the response port holds is no part
of what it looks at. -/
structure Observes (f : State → State) : Prop where
  answers : ∀ s, ∃ st d, f s = respond st d s
  ignores_rsp : ∀ st d s, f (respond st d s) = f s

/-- An observation gives the same answer when repeated. -/
theorem Observes.repeated {f : State → State} (hf : Observes f) (s : State) : f (f s) = f s := by
  obtain ⟨st, d, hs⟩ := hf.answers s
  calc f (f s) = f (respond st d s) := by rw [hs]
    _ = f s := hf.ignores_rsp st d s

/-- An answer whose data does not depend on the response port is an observation. -/
theorem observes_respond (st : Status) {data : State → BitVec 16}
    (hdata : ∀ st' d s, data (respond st' d s) = data s) :
    Observes fun s => respond st (data s) s where
  answers s := ⟨st, data s, rfl⟩
  ignores_rsp st' d s := by
    rw [hdata]
    rfl

/-- The check of a channel command keeps an observation one (rule R207). -/
theorem Observes.chanCheck {f : State → State} (hf : Observes f) (P : Params) (c : Nat) (b : Bool) :
    Observes fun s => chanCheck P c b s (f s) where
  answers s := by
    rcases chanCheck_cases P c b s (f s) with he | ⟨-, -, he⟩
    · exact ⟨_, _, he⟩
    · rw [he]
      exact hf.answers s
  ignores_rsp st d s := by
    simp only [Machine.chanCheck, chanOf_respond, hf.ignores_rsp]
    rfl

theorem observes_peek (P : Params) (ch : Byte) : Observes (peekOp P ch) := by
  refine Observes.chanCheck ⟨fun s => ?_, fun st d s => ?_⟩ P ch.toNat true
  · split <;> exact ⟨_, _, rfl⟩
  · simp only [chanOf_respond, memRead_respond]
    split <;> rfl

/-- An instruction whose meaning is an observation gives the same outcome when repeated. -/
theorem exec_repeated {i : Instr} {f : State → State} {s t : State} (hf : Observes f)
    (hexec : ∀ u, exec i u = .next (f u)) (hst : exec i s = .next t) : exec i t = .next t := by
  obtain rfl : f s = t := Host.Outcome.next.inj ((hexec s).symm.trans hst)
  rw [hexec, hf.repeated]

/-- Settles O60: each of the five commands is an observation. -/
theorem observationsAreIdempotent : Obligations.ObservationsAreIdempotent := by
  intro ch i s t hi hst
  simp only [List.mem_cons, List.not_mem_nil, or_false] at hi
  rcases hi with rfl | rfl | rfl | rfl | rfl
  · exact exec_repeated (observes_respond .success fun _ _ _ => rfl) (fun _ => rfl) hst
  · exact exec_repeated (observes_respond .success fun _ _ _ => rfl) (fun _ => rfl) hst
  · exact exec_repeated ((observes_respond .success fun _ _ _ => rfl).chanCheck _ _ _)
      (fun _ => rfl) hst
  · exact exec_repeated (observes_peek _ ch) (fun _ => rfl) hst
  · exact exec_repeated ((observes_respond .success fun _ _ _ => rfl).chanCheck _ _ _)
      (fun _ => rfl) hst

/-! ### Elapsed time (rule R76) -/

/-- Settles O31: `2^TIME_BITS` divides `2^64`, so the 64-bit difference has the low bits of the
`TIME_BITS`-bit one. -/
theorem elapsedIsRightAcrossAWrap : Obligations.ElapsedIsRightAcrossAWrap := by
  intro P s t0 d hd hnow
  have hdvd : 2 ^ P.timeBits ∣ 2 ^ 64 := Nat.pow_dvd_pow 2 P.timeBits_le
  have ht0 : t0.toNat ≤ 2 ^ 64 := t0.isLt.le
  have hsum : 2 ^ 64 - t0.toNat + s.now.toNat ≡ d [MOD 2 ^ P.timeBits] :=
    calc 2 ^ 64 - t0.toNat + s.now.toNat
      _ ≡ 2 ^ 64 - t0.toNat + (t0.toNat + d) [MOD 2 ^ P.timeBits] := Nat.ModEq.add_left _ hnow
      _ = 2 ^ 64 + d := by omega
      _ ≡ 0 + d [MOD 2 ^ P.timeBits] := (Nat.modEq_zero_iff_dvd.mpr hdvd).add_right d
      _ = d := Nat.zero_add d
  calc elapsed P s t0
    _ = (2 ^ 64 - t0.toNat + s.now.toNat) % 2 ^ 64 % 2 ^ P.timeBits := by
      rw [elapsed, BitVec.toNat_sub]
    _ = (2 ^ 64 - t0.toNat + s.now.toNat) % 2 ^ P.timeBits := Nat.mod_mod_of_dvd _ hdvd
    _ = d % 2 ^ P.timeBits := hsum
    _ = d := Nat.mod_eq_of_lt hd

/-! ### Slots that are written (rule R61) -/

variable {P : Params} {s t : State} {c h i n : Nat} {m : List Byte}

theorem storedIn_setSlot (i : Nat) (d : SlotHeader) (s : State) : StoredIn P i 0 s (setSlot i d s) :=
  ⟨by simp, fun _ hj => slotOf_setSlot_ne d s hj.symm, fun _ _ _ _ => rfl⟩

theorem storedIn_memWrite (i : Nat) {o : Nat} (ho : o < 256) (v : Byte) (s : State) :
    StoredIn P i (o + 1) s (memWrite P i o v s) := by
  refine ⟨rfl, fun _ _ => rfl, fun j p hp hne => ?_⟩
  rw [memRead_memWrite, if_neg]
  intro ha
  obtain ⟨rfl, rfl⟩ := slotAddr_inj hp ho ha
  exact hne ⟨rfl, Nat.lt_succ_self p⟩

/-- A frame's message is read from its own slot. -/
theorem slotMessage_of_storedIn (hst : StoredIn P i n s t) (hi : i ≠ h)
    (hlen : (slotOf h s).len ≤ 256) : slotMessage P h t = slotMessage P h s := by
  obtain ⟨-, hslot, hbyte⟩ := hst
  have hpay : payload P h (slotOf h s).len t = payload P h (slotOf h s).len s :=
    List.map_congr_left fun o ho =>
      hbyte h o ((List.mem_range.mp ho).trans_le hlen) fun hin => hi hin.1.symm
  simp only [slotMessage, hslot h hi.symm, hpay]

/-! ### A frame that stays in flight -/

/-- Slot `h` is in flight with the message `m`. -/
structure InFlight (P : Params) (h : Nat) (m : List Byte) (s : State) : Prop where
  head : s.txq.head? = some h
  waiting : s.txState.phase = true
  /-- The payload is within the slot's own addresses (rule R60). -/
  len_le : (slotOf h s).len ≤ 256
  message : slotMessage P h s = m

theorem InFlight.mem (hf : InFlight P h m s) : h ∈ s.txq := List.mem_of_head? hf.head

/-- An update outside the slots and the transmit half leaves a frame in flight. -/
theorem InFlight.congr (hf : InFlight P h m s) (hhdr : t.hdr = s.hdr := by simp)
    (hpay : t.pay = s.pay := by simp) (hepoch : t.epoch = s.epoch := by simp)
    (htxq : t.txq = s.txq := by simp) (htx : t.txState = s.txState := by simp) :
    InFlight P h m t := by
  have hslot : slotOf h t = slotOf h s := by simp only [slotOf, hhdr]
  have hmessage : slotMessage P h t = slotMessage P h s := by
    simp only [slotMessage, hslot, payload, memRead, payBlank, hpay, hepoch]
  exact ⟨htxq ▸ hf.head, htx ▸ hf.waiting, hslot ▸ hf.len_le, hmessage.trans hf.message⟩

/-- Writing another slot leaves the frame in flight. -/
theorem InFlight.store (hf : InFlight P h m s) (hst : StoredIn P i n s t) (hi : i ≠ h)
    (htxq : t.txq = s.txq := by simp) (htx : t.txState = s.txState := by simp) :
    InFlight P h m t := by
  have hmessage := slotMessage_of_storedIn hst hi hf.len_le
  obtain ⟨-, hslot, -⟩ := hst
  exact ⟨htxq ▸ hf.head, htx ▸ hf.waiting, hslot h hi.symm ▸ hf.len_le, hmessage.trans hf.message⟩

protected theorem InFlight.setSlot (hf : InFlight P h m s) (hi : i ≠ h) (d : SlotHeader) :
    InFlight P h m (setSlot i d s) :=
  hf.store (storedIn_setSlot i d s) hi

protected theorem InFlight.respond (hf : InFlight P h m s) (st : Status) (d : BitVec 16) :
    InFlight P h m (respond st d s) :=
  hf.congr

/-- While a frame is in flight, a submitted slot only joins the queue behind it (rule R140). -/
protected theorem InFlight.submit (hf : InFlight P h m s) (i : Nat) :
    InFlight P h m (submit P i s) := by
  rw [submit_waiting i hf.waiting]
  exact { hf with head := by simp [hf.head] }

protected theorem InFlight.submitAsm (hf : InFlight P h m s) (asm : Option Nat) :
    InFlight P h m (submitAsm P asm s) := by
  cases asm with
  | none => exact hf
  | some a => exact hf.submit a

protected theorem InFlight.txAcquire (hf : InFlight P h m s) (ha : txAcquire P s = some (i, t)) :
    InFlight P h m t := by
  obtain ⟨-, rest, -, rfl⟩ := txAcquire_eq_some.mp ha
  exact hf.congr

/-- An acquired slot is not the one in flight. -/
theorem InFlight.ne_of_txAcquire (hf : InFlight P h m s) (hb : Busy P [] [] [] s)
    (ha : txAcquire P s = some (i, t)) : i ≠ h :=
  (hb.txAcquire ha).ne_of_mem_txq (by simp) (hf.txAcquire ha).mem

/-! ### The commands but POLL -/

protected theorem InFlight.chanCheck {b : Bool} (hf : InFlight P h m s)
    (ht : c < P.nchan → (b = true → (chanOf c s).reg = true) → InFlight P h m t) :
    InFlight P h m (chanCheck P c b s t) := by
  rcases chanCheck_cases P c b s t with he | ⟨hc, hreg, he⟩
  · exact he ▸ hf.respond _ _
  · rw [he]
    exact ht hc hreg

protected theorem InFlight.openOp (hf : InFlight P h m s) (ch : Byte) :
    InFlight P h m (openOp P ch s) := by
  refine hf.chanCheck fun _ _ => ?_
  split <;> exact hf.congr

protected theorem InFlight.closeOp (hf : InFlight P h m s) (ch : Byte) :
    InFlight P h m (closeOp P ch s) :=
  hf.chanCheck fun _ _ => hf.congr

protected theorem InFlight.connectOp (hf : InFlight P h m s) (hb : Busy P [] [] [] s) (ch : Byte)
    (seconds : BitVec 16) : InFlight P h m (connectOp P ch seconds s) := by
  refine hf.chanCheck fun _ _ => ?_
  split
  · exact hf.respond _ _
  · exact hf.respond _ _
  · exact hf.respond _ _
  · split
    · exact hf.respond _ _
    · rename_i i t ha
      have hslot := (hf.txAcquire ha).setSlot (hf.ne_of_txAcquire hb ha) (freshHeader ch .connreq)
      exact (InFlight.submit hslot.congr i).respond _ _

protected theorem InFlight.disconnectOp (hf : InFlight P h m s) (hb : Busy P [] [] [] s)
    (ch : Byte) : InFlight P h m (disconnectOp P ch s) := by
  refine hf.chanCheck fun _ _ => ?_
  split
  · exact hf.respond _ _
  · exact hf.respond _ _
  · exact hf.respond _ _
  · split
    · exact hf.respond _ _
    · rename_i i t ha
      have hslot := ((hf.txAcquire ha).submitAsm (chanOf ch.toNat s).asm).setSlot
        (hf.ne_of_txAcquire hb ha) (freshHeader ch .discreq)
      exact (InFlight.submit hslot.congr i).respond _ _

/-- A byte appended to another slot (rule R195). -/
protected theorem InFlight.appendByte (hf : InFlight P h m s) (hi : i ≠ h)
    (hlen : (slotOf i s).len < 256) (c : Nat) (v : Byte) :
    InFlight P h m (appendByte P c i v s) := by
  have hslot := (hf.store (storedIn_memWrite i hlen v s) hi).setSlot hi
    { slotOf i s with len := (slotOf i s).len + 1 }
  unfold appendByte
  dsimp only
  split
  · exact (hslot.submit i).congr
  · exact hslot.congr

/-- WRITE stores into its channel's assembly buffer or into a slot it acquires; neither is queued. -/
protected theorem InFlight.writeOp (hf : InFlight P h m s) (hb : Busy P [] [] [] s) (ch v : Byte) :
    InFlight P h m (writeOp P ch v s) := by
  have hmax := P.maxpay_le
  refine hf.chanCheck fun hc hreg => ?_
  split
  · exact hf.respond _ _
  · split
    · rename_i a ha
      obtain ⟨hk, hok⟩ := hb.chanOf_ok hc
      have hdetached := hb.setChan (out' := [a]) hk (hok.dropAsm (hreg rfl)) (by simp [ha]) (.refl _)
      have hne : a ≠ h := hdetached.ne_of_mem_txq (by simp) hf.mem
      exact (hf.appendByte hne (by have := hb.len_le a; omega) _ v).respond _ _
    · split
      · exact hf.respond _ _
      · rename_i i t ha
        have hne := hf.ne_of_txAcquire hb ha
        obtain ⟨hfresh, -⟩ := (hb.txAcquire ha).freshSlot ch .noop
        have hslot := (hf.txAcquire ha).setSlot hne (freshHeader ch .noop)
        exact (hslot.appendByte hne (by have := hfresh.len_le i; omega) _ v).respond _ _

protected theorem InFlight.flushOp (hf : InFlight P h m s) (ch : Byte) :
    InFlight P h m (flushOp P ch s) := by
  refine hf.chanCheck fun _ _ => ?_
  split
  · exact hf.respond _ _
  · rename_i a _
    exact (hf.submit a).congr

protected theorem InFlight.readOp (hf : InFlight P h m s) (ch : Byte) :
    InFlight P h m (readOp P ch s) := by
  refine hf.chanCheck fun _ _ => ?_
  split
  · exact hf.respond _ _
  · refine InFlight.respond ?_ _ _
    split <;> exact hf.congr

protected theorem InFlight.peekOp (hf : InFlight P h m s) (ch : Byte) :
    InFlight P h m (peekOp P ch s) := by
  obtain ⟨st, d, he⟩ := (observes_peek P ch).answers s
  exact he ▸ hf.respond st d

/-! ### POLL and the received frames -/

/-- Slot `h` is in flight with the message `m` unless it has left the queue. -/
def InFlightIfQueued (P : Params) (h : Nat) (m : List Byte) (s : State) : Prop :=
  h ∈ s.txq → InFlight P h m s

theorem InFlightIfQueued.congr (hf : InFlightIfQueued P h m s) (hhdr : t.hdr = s.hdr := by simp)
    (hpay : t.pay = s.pay := by simp) (hepoch : t.epoch = s.epoch := by simp)
    (htxq : t.txq = s.txq := by simp) (htx : t.txState = s.txState := by simp) :
    InFlightIfQueued P h m t :=
  fun hq => (hf (htxq ▸ hq)).congr hhdr hpay hepoch htxq htx

/-- A link reset empties the queue (rule R262). -/
theorem inFlightIfQueued_linkReset (cause : ResetCause) (s : State) :
    InFlightIfQueued P h m (linkReset P cause s) :=
  fun hq => by simp at hq

/-- An acknowledgment takes the head from the queue, where it was listed once (rule R143). -/
protected theorem InFlightIfQueued.txAck (hf : InFlightIfQueued P h m s) (hnodup : s.txq.Nodup)
    (n : Bool) : InFlightIfQueued P h m (txAck P n s) := by
  unfold txAck
  split
  · rename_i j rest _ hq
    split
    · intro hmem
      have hrest : h ∈ rest := by simpa using hmem
      have hhead := (hf (hq ▸ List.mem_cons_of_mem j hrest)).head
      obtain rfl : j = h := by simpa [hq] using hhead
      rw [hq] at hnodup
      exact absurd hrest (List.nodup_cons.mp hnodup).1
    · exact hf
  all_goals exact hf

protected theorem InFlightIfQueued.sequenceDispatch (hf : InFlightIfQueued P h m s) (i : Nat)
    (n : Bool) : InFlightIfQueued P h m (sequenceDispatch P i n s) := by
  unfold sequenceDispatch
  split
  · split <;> exact hf.congr
  · split
    · exact hf.congr
    · exact inFlightIfQueued_linkReset _ _

protected theorem InFlightIfQueued.dispatch (hf : InFlightIfQueued P h m s) (hnodup : s.txq.Nodup)
    (i : Nat) : InFlightIfQueued P h m (dispatch P i s) := by
  unfold dispatch
  dsimp only
  split
  · exact inFlightIfQueued_linkReset _ _
  · split
    · exact InFlightIfQueued.txAck (s := poolRelease i s) hf.congr hnodup _
    · split
      · exact hf.sequenceDispatch i _
      · exact hf.congr

theorem Busy.nodup_txq (hb : Busy P [] [] [] s) : s.txq.Nodup :=
  have hheld : (s.free ++ s.txq ++ unread s ++ assembling s).Nodup := hb.nodup.of_append_left
  hheld.of_append_left.of_append_left.of_append_right

/-- A received frame is stored in a slot that was free, so not in a queued one (rule R161). -/
protected theorem InFlightIfQueued.receive {v : Option RawFrame} (hf : InFlightIfQueued P h m s)
    (hb : Busy P [] [] [] s) (hv : ∀ f, v = some f → f.pay.length ≤ P.maxpay) :
    InFlightIfQueued P h m (receive P v s) := by
  rcases receive_cases P v s with ⟨-, he⟩ | ⟨i, rest, -, -, he⟩ | ⟨i, rest, f, hfree, hfv, he⟩
  · exact he ▸ hf.congr
  · exact he ▸ hf.congr
  · have hstored : InFlightIfQueued P h m (stored P i rest f s) := fun hq => by
      have hq : h ∈ s.txq := by simpa [stored] using hq
      have hne : i ≠ h := (hb.poolAcquire hfree).ne_of_mem_txq (by simp) hq
      exact (hf hq).store (storedIn_stored P i rest f s (hv f hfv)) hne
        (by simp [stored]) (by simp [stored])
    have hnodup : (stored P i rest f s).txq.Nodup := by simpa [stored] using hb.nodup_txq
    exact he ▸ hstored.dispatch hnodup i

protected theorem InFlightIfQueued.rxByte (hf : InFlightIfQueued P h m s) (hb : Busy P [] [] [] s)
    (b : Byte) : InFlightIfQueued P h m (rxByte P b s) := by
  unfold rxByte
  split
  · exact hf.receive hb fun f => length_le_of_validate
  · split
    · exact hf.congr
    · split <;> exact hf.congr

protected theorem InFlightIfQueued.rxBytes (bs : List Byte) :
    ∀ {s : State}, InFlightIfQueued P h m s → Busy P [] [] [] s →
      InFlightIfQueued P h m (rxBytes P bs s) := by
  induction bs with
  | nil => exact fun hf _ => hf
  | cons b bs ih => exact fun hf hb => ih (hf.rxByte hb b) (hb.rxByte b)

protected theorem InFlightIfQueued.txTimer (hf : InFlightIfQueued P h m s) :
    InFlightIfQueued P h m (txTimer P s) := by
  unfold txTimer
  split
  · split
    · exact inFlightIfQueued_linkReset _ _
    · exact hf.congr
  · exact hf

protected theorem InFlightIfQueued.pollOp (hf : InFlightIfQueued P h m s) (hb : Busy P [] [] [] s) :
    InFlightIfQueued P h m (pollOp P s) := by
  have hstart : InFlightIfQueued P h m { s with wireRx := [] } := hf.congr
  have hbusy : Busy P [] [] [] { s with wireRx := [] } :=
    { hb with channel := hb.channel_of_eq rfl rfl }
  have htimer := (hstart.rxBytes s.wireRx hbusy).txTimer
  unfold pollOp pollTimers
  exact htimer.congr

/-! ### Steps -/

theorem length_le_of_acceptTags {f g : RawFrame} (hf : f.pay.length ≤ P.maxpay)
    (hg : acceptTags f = some g) : g.pay.length ≤ P.maxpay := by
  unfold acceptTags at hg
  split at hg <;> cases hg
  exact hf

/-- No well-formed instruction, command or received frame, changes the message of the frame in flight
while it is queued. -/
theorem exec_keeps_inFlight (hf : InFlight Config.params h m s)
    (hb : Busy Config.params [] [] [] s) :
    ∀ i : Instr, i.wellFormed Config.params = true →
      ∃ t, exec i s = .next t ∧ InFlightIfQueued Config.params h m t
  | .poll, _ => ⟨_, rfl, InFlightIfQueued.pollOp (fun _ => hf) hb⟩
  | .openChan ch, _ => ⟨_, rfl, fun _ => hf.openOp ch⟩
  | .closeChan ch, _ => ⟨_, rfl, fun _ => hf.closeOp ch⟩
  | .connect ch sec, _ => ⟨_, rfl, fun _ => hf.connectOp hb ch sec⟩
  | .disconnect ch, _ => ⟨_, rfl, fun _ => hf.disconnectOp hb ch⟩
  | .write ch v, _ => ⟨_, rfl, fun _ => hf.writeOp hb ch v⟩
  | .flush ch, _ => ⟨_, rfl, fun _ => hf.flushOp ch⟩
  | .read ch, _ => ⟨_, rfl, fun _ => hf.readOp ch⟩
  | .peek ch, _ => ⟨_, rfl, fun _ => hf.peekOp ch⟩
  | .avail _, _ | .status _, _ => ⟨_, rfl, fun _ => hf.chanCheck fun _ _ => hf.respond _ _⟩
  | .nop, _ | .linkstat, _ | .reserved0D, _ | .reserved0E0F _, _ | .reserved101F _, _
  | .reserved203F _, _ | .reserved407F _, _ | .reserved80FF _, _ =>
    ⟨_, rfl, fun _ => hf.respond _ _⟩
  | .frameReservedC2 _ _ _ _, hw | .frameReservedC3 _ _ _ _, hw | .frameReservedC4 _ _ _ _, hw
  | .frameReservedC5 _ _ _ _, hw | .frameReservedC6 _ _ _ _, hw | .frameReservedC7 _ _ _ _, hw
  | .frameReservedA2 _ _ _ _, hw | .frameReservedA3 _ _ _ _, hw | .frameReservedA4 _ _ _ _, hw
  | .frameReservedA5 _ _ _ _, hw | .frameReservedA6 _ _ _ _, hw | .frameReservedA7 _ _ _ _, hw
  | .ack0 _ _ _, hw | .ack1 _ _ _, hw =>
    have hfits := of_decide_eq_true (Bool.and_eq_true_iff.mp hw).1
    ⟨_, rfl, InFlightIfQueued.receive (fun _ => hf) hb fun _ => length_le_of_acceptTags hfits⟩
  | .frameReset _ _ _, hw | .data0Noop _ _, hw | .data1Noop _ _, hw | .data0Connreq _ _, hw
  | .data1Connreq _ _, hw | .data0Discreq _ _, hw | .data1Discreq _ _, hw =>
    ⟨_, rfl, InFlightIfQueued.receive (fun _ => hf) hb fun _ =>
      length_le_of_acceptTags (of_decide_eq_true hw)⟩

/-- Settles O57: the frame is in flight in `s` with its message, and stays so while it is queued. -/
theorem frameInFlightKeepsItsMessage : Obligations.FrameInFlightKeepsItsMessage := by
  intro s t h hwf hst hphase hhead hhead'
  have hb := busy_nil_iff.mpr hwf
  have hlen : (slotOf h s).len ≤ 256 := by
    have := hb.len_le h
    have := Config.params.maxpay_le
    omega
  obtain ⟨u, hu, hkept⟩ := exec_keeps_inFlight ⟨hhead, hphase, hlen, rfl⟩ hb _
    (decodeCommand_wellFormed Config.params s.cmd)
  obtain rfl : u = t := Host.Outcome.next.inj (hu.symm.trans hst)
  exact (hkept (List.mem_of_head? hhead')).message

end Sys2Proof.Machine
end

section
/-!
PROOFS. The encodings (30_encoding.md), and the meanings that follow from a word's row alone. Decoding is
taken apart along the rows: the reserved opcodes (`reservedRow`), the frame kinds with legal tags
(`frameKind`), and the frames with a reserved tag bit, whose row is a condition on single bits of the tag
bytes.
-/

namespace Sys2Proof

open Machine

/-! ### The command word (rules R91 to R93, R105) -/

/-- The row of an opcode above `0x0D`. -/
def reservedRow (op : Byte) : Instr :=
  if op.toNat < 0x10 then .reserved0E0F (op.setWidth 1)
  else if op.toNat < 0x20 then .reserved101F (op.setWidth 4)
  else if op.toNat < 0x40 then .reserved203F (op.setWidth 5)
  else if op.toNat < 0x80 then .reserved407F (op.setWidth 6)
  else .reserved80FF (op.setWidth 7)

/-- A reserved opcode alone decides what its word decodes to. -/
theorem decodeCommand_reserved {op : Byte} (hop : 0x0D < op.toNat) (ch : Byte) (arg : BitVec 16) :
    decodeCommand (commandWord op ch arg) = reservedRow op := by
  have hne : ∀ k : Byte, k.toNat ≤ 0x0D → op ≠ k := fun k hk he => by
    rw [he] at hop
    omega
  simp only [decodeCommand, opField_commandWord, hne 0x00 (by decide), hne 0x01 (by decide),
    hne 0x02 (by decide), hne 0x03 (by decide), hne 0x04 (by decide), hne 0x05 (by decide),
    hne 0x06 (by decide), hne 0x07 (by decide), hne 0x08 (by decide), hne 0x09 (by decide),
    hne 0x0A (by decide), hne 0x0B (by decide), hne 0x0C (by decide), hne 0x0D (by decide), if_false,
    reservedRow]

/-- An opcode that begins with the fixed bits `hi` of its row, which starts at `base`, decodes to the row
with the free bits `lo`. -/
theorem decodeCommand_append {m n : Nat} {hi : BitVec m} {lo : BitVec n} {op : Byte}
    {mk : BitVec n → Instr} (base : Nat) (hop : op.toNat = (hi ++ lo).toNat)
    (hbase : hi.toNat * 2 ^ n = base) (hmin : 0x0D < base)
    (hrow : base ≤ op.toNat → op.toNat < base + 2 ^ n → reservedRow op = mk (op.setWidth n)) :
    decodeCommand (commandWord op 0 0) = mk lo := by
  have hlo := lo.isLt
  rw [append_toNat, hbase] at hop
  have hlow : op.setWidth n = lo := by
    apply BitVec.eq_of_toNat_eq
    rw [BitVec.toNat_setWidth, hop, ← hbase, Nat.mul_add_mod_of_lt hlo]
  rw [decodeCommand_reserved (by omega), hrow (by omega) (by omega), hlow]

/-- Settles O3: the fields of a word are read one by one, and each row names those it takes. -/
theorem ignoredCommandFieldsHaveNoEffect : Obligations.IgnoredCommandFieldsHaveNoEffect := by
  intro op ch ch' arg arg'
  refine ⟨fun hop => ?_, fun ⟨hconnect, hwrite⟩ => ?_, ?_, ?_⟩
  · rcases hop with rfl | rfl | rfl | hop
    · simp [decodeCommand]
    · simp [decodeCommand]
    · simp [decodeCommand]
    · rcases Nat.eq_or_lt_of_le hop with heq | hlt
      · obtain rfl : op = 0x0D := BitVec.eq_of_toNat_eq heq.symm
        simp [decodeCommand]
      · rw [decodeCommand_reserved hlt, decodeCommand_reserved hlt]
  · simp only [decodeCommand, opField_commandWord, chField_commandWord, hconnect, hwrite, if_false]
  · simp [decodeCommand]
  · simp [decodeCommand, BitVec.setWidth_eq_extractLsb']

/-- Settles O4: each word is evaluated. -/
theorem wordsOfTheSpecDecode : Obligations.WordsOfTheSpecDecode := by
  unfold Obligations.WordsOfTheSpecDecode
  decide

/-! ### The tag bytes (rule R104) -/

/-- The reserved bits of a tag byte are the six upper ones. -/
theorem reservedClear_eq (b : Byte) :
    reservedClear b = (!b.getLsbD 2 && !b.getLsbD 3 && !b.getLsbD 4 && !b.getLsbD 5 &&
      !b.getLsbD 6 && !b.getLsbD 7) := by
  rw [Bool.eq_iff_iff, reservedClear_iff]
  constructor
  · intro h
    simp only [h, Nat.reduceLeDiff, Bool.not_false, Bool.and_self]
  · intro h k hk
    rcases Nat.lt_or_ge k 8 with hlt | hge
    · simp only [Bool.and_eq_true, Bool.not_eq_true'] at h
      obtain ⟨⟨⟨⟨⟨h2, h3⟩, h4⟩, h5⟩, h6⟩, h7⟩ := h
      interval_cases k <;> assumption
    · exact BitVec.getLsbD_of_ge b k hge

/-- A byte with a reserved bit has a first one. -/
theorem exists_firstReservedBit {b : Byte} (h : reservedClear b = false) :
    ∃ k, 2 ≤ k ∧ k < 8 ∧ firstReservedBit k b = true := by
  have hex : ∃ k, 2 ≤ k ∧ b.getLsbD k = true := by
    by_contra hno
    push Not at hno
    have := (reservedClear_iff b).mpr fun k hk => by simpa using hno k hk
    simp [h] at this
  obtain ⟨hk, hbit⟩ := Nat.find_spec hex
  refine ⟨Nat.find hex, hk, BitVec.lt_of_getLsbD hbit, Bool.and_eq_true_iff.mpr ⟨hbit, ?_⟩⟩
  refine List.all_eq_true.mpr fun j hj => ?_
  have hmin := Nat.find_min hex (List.mem_range.mp hj)
  by_cases hj2 : j < 2
  · simp [hj2]
  · have hclear : b.getLsbD j = false := by simpa [Nat.le_of_not_lt hj2] using hmin
    simp [hclear]

/-! ### The frame kinds (rules R103, R104) -/

/-- The kind of a frame whose tags are legal. -/
def frameKind (chan : Byte) (ct : CType) (aty : AType) (pay : List Byte) : Instr :=
  match ct, aty with
  | .reset, t => .frameReset chan t pay
  | c, .ack false => .ack0 chan c pay
  | c, .ack true => .ack1 chan c pay
  | .noop, .data false => .data0Noop chan pay
  | .noop, .data true => .data1Noop chan pay
  | .connreq, .data false => .data0Connreq chan pay
  | .connreq, .data true => .data1Connreq chan pay
  | .discreq, .data false => .data0Discreq chan pay
  | .discreq, .data true => .data1Discreq chan pay

theorem classify_tags (chan : Byte) (ct : CType) (aty : AType) (pay : List Byte) :
    classify ⟨chan, ct.byte, aty.byte, pay⟩ = frameKind chan ct aty pay := by
  have hc := (reservedClear_iff _).mp (reservedClear_ctype ct)
  have ha := (reservedClear_iff _).mp (reservedClear_atype aty)
  simp only [classify, hc, ha, Nat.reduceLeDiff, Bool.false_eq_true, if_false, CType.ofByte_byte,
    AType.ofByte_byte]
  rfl

theorem encode_frameKind (P : Params) (chan : Byte) (ct : CType) (aty : AType) (pay : List Byte) :
    encode P (frameKind chan ct aty pay) = .frame (rawFrame P ⟨chan, ct.byte, aty.byte, pay⟩) := by
  rcases aty with n | n
  all_goals cases ct <;> cases n <;> rfl

theorem wellFormed_frameKind {P : Params} {pay : List Byte} (h : pay.length ≤ P.maxpay)
    (chan : Byte) (ct : CType) (aty : AType) :
    (frameKind chan ct aty pay).wellFormed P = true := by
  rcases aty with n | n
  all_goals cases ct <;> cases n <;> simp [frameKind, Instr.wellFormed, payloadFits, h]

theorem frameKind_ack {ct : CType} (hct : ct ≠ .reset) (chan : Byte) (n : Bool) (pay : List Byte) :
    frameKind chan ct (.ack n) pay = if n then .ack1 chan ct pay else .ack0 chan ct pay := by
  cases ct with
  | reset => exact absurd rfl hct
  | noop | connreq | discreq => cases n <;> rfl

/-- A well-formed frame of a row of rule R104 is classified to that row: the bits that well-formedness
names are those that `classify` tests on the way to the row. -/
theorem classify_reserved {P : Params} {chan ctype atype : Byte} {pay : List Byte} {i : Instr}
    (hi : i ∈ reservedFrames chan ctype atype pay) (hw : i.wellFormed P = true) :
    classify ⟨chan, ctype, atype, pay⟩ = i ∧ pay.length ≤ P.maxpay ∧
      tagsValid ⟨chan, ctype, atype, pay⟩ = false := by
  simp only [reservedFrames, List.mem_cons, List.not_mem_nil, or_false] at hi
  rcases hi with rfl | rfl | rfl | rfl | rfl | rfl | rfl | rfl | rfl | rfl | rfl | rfl
  all_goals
    simp_all [Instr.wellFormed, payloadFits, firstReservedBit, List.range_succ, classify,
      reservedClear_eq, tagsValid]

/-- A frame with a reserved tag bit has a row of rule R104: its first such bit, in `CTYPE` before `ATYPE`,
numbers the row. -/
theorem exists_reservedFrame {P : Params} {f : RawFrame} (h : tagsValid f = false)
    (hfits : f.pay.length ≤ P.maxpay) :
    ∃ i ∈ reservedFrames f.chan f.ctype f.atype f.pay, i.wellFormed P = true := by
  cases hc : reservedClear f.ctype with
  | false =>
    obtain ⟨k, hk, hk8, hfirst⟩ := exists_firstReservedBit hc
    have hrow : k - 2 < (reservedFrames f.chan f.ctype f.atype f.pay).length := by
      simp only [reservedFrames, List.length_cons]
      omega
    refine ⟨_, List.getElem_mem hrow, ?_⟩
    interval_cases k <;> simp [reservedFrames, Instr.wellFormed, payloadFits, hfits, hfirst]
  | true =>
    have ha : reservedClear f.atype = false := by simpa [tagsValid, hc] using h
    obtain ⟨k, hk, hk8, hfirst⟩ := exists_firstReservedBit ha
    have hrow : k + 4 < (reservedFrames f.chan f.ctype f.atype f.pay).length := by
      simp only [reservedFrames, List.length_cons]
      omega
    refine ⟨_, List.getElem_mem hrow, ?_⟩
    interval_cases k <;> simp [reservedFrames, Instr.wellFormed, payloadFits, hfits, hc, hfirst]

theorem encode_reserved (P : Params) {chan ctype atype : Byte} {pay : List Byte} {i : Instr}
    (hi : i ∈ reservedFrames chan ctype atype pay) :
    encode P i = .frame (rawFrame P ⟨chan, ctype, atype, pay⟩) := by
  simp only [reservedFrames, List.mem_cons, List.not_mem_nil, or_false] at hi
  rcases hi with rfl | rfl | rfl | rfl | rfl | rfl | rfl | rfl | rfl | rfl | rfl | rfl <;> rfl

theorem exec_reserved {chan ctype atype : Byte} {pay : List Byte} {i : Instr}
    (hi : i ∈ reservedFrames chan ctype atype pay) (s : State) :
    exec i s = .next (receiveFrame Config.params ⟨chan, ctype, atype, pay⟩ s) := by
  simp only [reservedFrames, List.mem_cons, List.not_mem_nil, or_false] at hi
  rcases hi with rfl | rfl | rfl | rfl | rfl | rfl | rfl | rfl | rfl | rfl | rfl | rfl <;> rfl

/-! ### Both directions -/

/-- A built raw frame decodes to the kind of its header. -/
theorem decode_rawFrame {P : Params} {f : RawFrame} (h : f.pay.length ≤ P.maxpay) :
    decode P (.frame (rawFrame P f)) = .ok (classify f) := by
  simp only [decode, decodeRaw, checkRaw_rawFrame P f h, Except.map]

theorem decode_encode_frameKind {P : Params} {pay : List Byte} (h : payloadFits P pay = true)
    (chan : Byte) (ct : CType) (aty : AType) :
    decode P (encode P (frameKind chan ct aty pay)) = .ok (frameKind chan ct aty pay) := by
  have hfits : pay.length ≤ P.maxpay := of_decide_eq_true h
  rw [encode_frameKind, decode_rawFrame hfits, classify_tags]

theorem decode_encode_reserved {P : Params} {chan ctype atype : Byte} {pay : List Byte} {i : Instr}
    (hw : i.wellFormed P = true) (hi : i ∈ reservedFrames chan ctype atype pay) :
    decode P (encode P i) = .ok i := by
  obtain ⟨hclassify, hfits, -⟩ := classify_reserved hi hw
  rw [encode_reserved P hi, decode_rawFrame hfits, hclassify]

/-- Settles O1, row by row. -/
theorem decodeOfEncodeIsTheInstruction : Obligations.DecodeOfEncodeIsTheInstruction := by
  intro P i hw
  cases i with
  | nop | poll | openChan | closeChan | connect | disconnect | write | flush | read | peek | avail
  | status | linkstat | reserved0D => simp [decode, encode, decodeCommand]
  | reserved0E0F lo =>
    exact congrArg Except.ok <| decodeCommand_append 0x0E rfl rfl (by decide) fun _ _ => by
      rw [reservedRow, if_pos (by omega)]
  | reserved101F lo =>
    exact congrArg Except.ok <| decodeCommand_append 0x10 rfl rfl (by decide) fun _ _ => by
      rw [reservedRow, if_neg (by omega), if_pos (by omega)]
  | reserved203F lo =>
    exact congrArg Except.ok <| decodeCommand_append 0x20 rfl rfl (by decide) fun _ _ => by
      rw [reservedRow, if_neg (by omega), if_neg (by omega), if_pos (by omega)]
  | reserved407F lo =>
    exact congrArg Except.ok <| decodeCommand_append 0x40 rfl rfl (by decide) fun _ _ => by
      rw [reservedRow, if_neg (by omega), if_neg (by omega), if_neg (by omega), if_pos (by omega)]
  | reserved80FF lo =>
    exact congrArg Except.ok <| decodeCommand_append 0x80 rfl rfl (by decide) fun _ _ => by
      rw [reservedRow, if_neg (by omega), if_neg (by omega), if_neg (by omega), if_neg (by omega)]
  | frameReservedC2 chan ctype atype pay | frameReservedC3 chan ctype atype pay
  | frameReservedC4 chan ctype atype pay | frameReservedC5 chan ctype atype pay
  | frameReservedC6 chan ctype atype pay | frameReservedC7 chan ctype atype pay
  | frameReservedA2 chan ctype atype pay | frameReservedA3 chan ctype atype pay
  | frameReservedA4 chan ctype atype pay | frameReservedA5 chan ctype atype pay
  | frameReservedA6 chan ctype atype pay | frameReservedA7 chan ctype atype pay =>
    exact decode_encode_reserved (chan := chan) (ctype := ctype) (atype := atype) (pay := pay) hw
      (by simp [reservedFrames])
  | frameReset chan aty pay => exact decode_encode_frameKind hw chan .reset aty
  | ack0 chan ct pay =>
    obtain ⟨hfits, hct⟩ := Bool.and_eq_true_iff.mp hw
    have hround := decode_encode_frameKind hfits chan ct (.ack false)
    rwa [frameKind_ack (of_decide_eq_true hct)] at hround
  | ack1 chan ct pay =>
    obtain ⟨hfits, hct⟩ := Bool.and_eq_true_iff.mp hw
    have hround := decode_encode_frameKind hfits chan ct (.ack true)
    rwa [frameKind_ack (of_decide_eq_true hct)] at hround
  | data0Noop chan pay => exact decode_encode_frameKind hw chan .noop (.data false)
  | data1Noop chan pay => exact decode_encode_frameKind hw chan .noop (.data true)
  | data0Connreq chan pay => exact decode_encode_frameKind hw chan .connreq (.data false)
  | data1Connreq chan pay => exact decode_encode_frameKind hw chan .connreq (.data true)
  | data0Discreq chan pay => exact decode_encode_frameKind hw chan .discreq (.data false)
  | data1Discreq chan pay => exact decode_encode_frameKind hw chan .discreq (.data true)

/-- A frame that fits encodes the kind it is of. -/
theorem encode_classify {P : Params} (f : RawFrame) (hfits : f.pay.length ≤ P.maxpay) :
    (classify f).wellFormed P = true ∧ encode P (classify f) = .frame (rawFrame P f) := by
  cases htags : tagsValid f with
  | false =>
    obtain ⟨i, hi, hw⟩ := exists_reservedFrame htags hfits
    obtain ⟨rfl, -, -⟩ := classify_reserved hi hw
    exact ⟨hw, encode_reserved P hi⟩
  | true =>
    obtain ⟨hc, ha⟩ := Bool.and_eq_true_iff.mp htags
    have hf : f = ⟨f.chan, (CType.ofByte f.ctype).byte, (AType.ofByte f.atype).byte, f.pay⟩ := by
      rw [CType.byte_ofByte hc, AType.byte_ofByte ha]
    rw [hf, classify_tags]
    exact ⟨wellFormed_frameKind hfits _ _ _, encode_frameKind P _ _ _ _⟩

/-- Settles O2: the bytes of an accepted frame are its fields' raw frame. -/
theorem acceptedFrameIsTheEncodingOfItsInstruction :
    Obligations.AcceptedFrameIsTheEncodingOfItsInstruction := by
  intro P r i hr
  cases hf : checkRaw P r with
  | error e => simp [decodeRaw, hf, Except.map] at hr
  | ok f =>
    obtain rfl : classify f = i := by simpa [decodeRaw, hf, Except.map] using hr
    obtain ⟨hraw, hfits⟩ := rawFrame_of_checkRaw hf
    rw [← hraw]
    exact encode_classify f hfits

/-- Settles O32: the last check of rule R162 turns such a frame away. -/
theorem reservedTagFramesAreDiscarded : Obligations.ReservedTagFramesAreDiscarded := by
  intro chan ctype atype pay i s j rest hi hw hfree
  obtain ⟨-, -, htags⟩ := classify_reserved hi hw
  have hrejected : acceptTags ⟨chan, ctype, atype, pay⟩ = none := by simp [acceptTags, htags]
  rw [exec_reserved hi, receiveFrame, hrejected, receive, poolAcquire_of_cons hfree]
  rfl

/-! ### The responses (rules R94 to R97) -/

/-- A successful response is told by the number that its data is. -/
theorem rspWord_success {d : BitVec 16} {n : Nat} (h : d.toNat = n) :
    rspWord .success d = BitVec.ofNat 32 n := by
  have hword : (rspWord .success d).toNat = n := by
    rw [rspWord_toNat, h, show Status.success.code.toNat = 0 from rfl, Nat.zero_mul, Nat.zero_add]
  rw [← hword, BitVec.ofNat_toNat, BitVec.setWidth_eq]

/-- Settles O14: the two state machines' numbers are added up. -/
theorem linkstatReportsTheLink : Obligations.LinkstatReportsTheLink := by
  intro s hfree
  refine congrArg (fun w => Host.Outcome.next { s with rsp := w }) (rspWord_success ?_)
  rw [linkstatData_toNat (Nat.lt_succ_of_le hfree)]
  refine congrArg₂ (· + ·) (congrArg (s.free.length * 256 + · * 4) ?_) ?_
  · rcases s.rxState with (_ | _) | (_ | _) <;> rfl
  · rcases s.txState with (_ | _) | (_ | _) <;> rfl

/-- Settles O15: an id below `NCHAN` passes the check, and the fields' numbers are added up. -/
theorem statusReportsTheChannel : Obligations.StatusReportsTheChannel := by
  intro ch s
  show Host.Outcome.next (statusOp Config.params ch s) = _
  congr 1
  split
  · rename_i hge
    exact chanCheck_out_of_range hge
  · rename_i hlt
    rw [statusOp, chanCheck_any (Nat.lt_of_not_le hlt)]
    refine congrArg (fun w => { s with rsp := w }) (rspWord_success ?_)
    rw [statusData_toNat]
    refine congrArg₂ (· + ·) (congrArg (· * 16 + _) ?_) ?_
    · cases (chanOf ch.toNat s).cstat <;> rfl
    · cases (chanOf ch.toNat s).cstate <;> rfl

end Sys2Proof
end

section
/-!
PROOFS. What goes out on the wire (30_encoding.md R103, R106). A message is emitted in few places, and each
sends the frame of a slot, whose byte count is in its field's range, or a frame built from constants; so
`Sent`, which says both of a state reached from another, is kept operation by operation.
-/

namespace Sys2Proof.Machine

variable {P : Params} {ws : List (List Byte)} {s t : State} {c i : Nat}

/-- A message of a frame that fits and has legal tags. -/
def FrameMessage (P : Params) (m : List Byte) : Prop :=
  ∃ f : RawFrame, f.pay.length ≤ P.maxpay ∧ tagsValid f = true ∧ m = message P (rawFrame P f)

/-- A like endpoint accepts such a frame's text as that frame (rule R162). -/
theorem validate_encode {f : RawFrame} (hfits : f.pay.length ≤ P.maxpay)
    (htags : tagsValid f = true) : validate P (P.encode (rawFrame P f)) false = some f := by
  simp [validate, checkMessage, P.decode_encode, checkRaw_rawFrame P f hfits, acceptTags, htags]

theorem frameMessage_raw {pay : List Byte} (h : pay.length ≤ P.maxpay) (chan : Byte) (ct : CType)
    (aty : AType) : FrameMessage P (message P (raw P chan ct aty pay)) :=
  ⟨⟨chan, ct.byte, aty.byte, pay⟩, h, by simp [tagsValid], rfl⟩

theorem frameMessage_slot (h : (slotOf i s).len ≤ P.maxpay) : FrameMessage P (slotMessage P i s) :=
  frameMessage_raw (by simpa [payload] using h) _ _ _

/-- Since `WIRE_TX` held `ws`, messages of frames alone were emitted; and the slots' byte counts are in
range, so that a slot sent next is such a message. -/
structure Sent (P : Params) (ws : List (List Byte)) (s : State) : Prop where
  lengths : LengthsWf P s
  messages : ∃ ms, s.wireTx = ws ++ ms ∧ ∀ m ∈ ms, FrameMessage P m

theorem LengthsWf.len_le (h : LengthsWf P s) (i : Nat) : (slotOf i s).len ≤ P.maxpay := by
  unfold slotOf
  rcases Nat.lt_or_ge i s.hdr.length with hi | hi
  · rw [List.getD_eq_getElem _ _ hi]
    exact h _ (List.getElem_mem hi)
  · rw [List.getD_eq_default _ _ hi]
    exact Nat.zero_le _

/-! ### Slots and messages -/

/-- An update that neither writes a header nor emits. -/
theorem Sent.congr (h : Sent P ws s) (hhdr : t.hdr = s.hdr := by simp)
    (hwire : t.wireTx = s.wireTx := by simp) : Sent P ws t := by
  obtain ⟨hlen, hms⟩ := h
  refine ⟨?_, hwire ▸ hms⟩
  unfold LengthsWf
  rwa [hhdr]

protected theorem Sent.setSlot (h : Sent P ws s) {d : SlotHeader} (hd : d.len ≤ P.maxpay) (i : Nat) :
    Sent P ws (setSlot i d s) where
  lengths e he := by
    rcases List.mem_or_eq_of_mem_set he with he | rfl
    · exact h.lengths e he
    · exact hd
  messages := h.messages

protected theorem Sent.emit (h : Sent P ws s) {m : List Byte} (hm : FrameMessage P m) :
    Sent P ws (emit m s) where
  lengths := h.lengths
  messages := by
    obtain ⟨ms, hw, hms⟩ := h.messages
    refine ⟨ms ++ [m], by simp [hw], fun x hx => ?_⟩
    rcases List.mem_append.mp hx with hx | hx
    · exact hms x hx
    · exact List.mem_singleton.mp hx ▸ hm

/-- A slot's frame is emitted (rule R146). -/
protected theorem Sent.emitFrame (h : Sent P ws s) (i : Nat) : Sent P ws (emitFrame P i s) :=
  h.emit (frameMessage_slot (h.lengths.len_le i))

protected theorem Sent.sendAck (h : Sent P ws s) (n : Bool) : Sent P ws (sendAck P n s) :=
  h.emit (frameMessage_raw (Nat.zero_le _) _ _ _)

protected theorem Sent.sendReset (h : Sent P ws s) (chan : Byte) : Sent P ws (sendReset P chan s) :=
  h.emit (frameMessage_raw (Nat.zero_le _) _ _ _)

/-! ### The transmit half -/

protected theorem Sent.startSend (h : Sent P ws s) : Sent P ws (startSend P s) := by
  unfold startSend
  split
  · exact h
  · rename_i i _ _
    exact ((h.setSlot (d := { slotOf i s with atype := .data s.txState.seq })
      (h.lengths.len_le i) i).emitFrame i).congr

protected theorem Sent.submit (h : Sent P ws s) (i : Nat) : Sent P ws (submit P i s) := by
  have henqueue : Sent P ws { s with txq := s.txq ++ [i] } := h.congr
  cases hp : s.txState.phase with
  | true => exact submit_waiting (P := P) i hp ▸ henqueue
  | false => exact submit_idle (P := P) i hp ▸ henqueue.startSend

protected theorem Sent.submitAsm (h : Sent P ws s) (asm : Option Nat) :
    Sent P ws (submitAsm P asm s) := by
  cases asm with
  | none => exact h
  | some a => exact h.submit a

protected theorem Sent.sendNext (h : Sent P ws s) : Sent P ws (sendNext P s) := by
  unfold sendNext
  split
  · exact h
  · exact h.startSend

protected theorem Sent.txAck (h : Sent P ws s) (m : Bool) : Sent P ws (txAck P m s) := by
  unfold txAck
  split
  · split
    · exact Sent.sendNext h.congr
    · exact h
  · exact h
  · exact h

protected theorem Sent.txTimer (h : Sent P ws s) : Sent P ws (txTimer P s) := by
  unfold txTimer
  split
  · split
    · exact h.congr
    · unfold retransmit
      split
      · exact h
      · rename_i i _ _
        exact (h.emitFrame i).congr
  · exact h

/-! ### The receive half -/

protected theorem Sent.channelRelease (h : Sent P ws s) (i : Nat) :
    Sent P ws (channelRelease P i s) := by
  have hfree : Sent P ws (poolRelease i s) := h.congr
  unfold channelRelease
  dsimp only
  split
  · exact hfree
  · rename_i n _
    exact (hfree.sendAck n).congr

protected theorem Sent.releaseAll (l : List Nat) :
    ∀ {s : State}, Sent P ws s → Sent P ws (releaseAll P l s) := by
  induction l with
  | nil => exact id
  | cons i l ih => exact fun h => ih (h.channelRelease i)

protected theorem Sent.deliver (h : Sent P ws s) (i : Nat) : Sent P ws (deliver P i s) := by
  unfold deliver
  dsimp only
  split
  · split
    · exact h.congr
    · exact h.channelRelease i
  · exact Sent.channelRelease h.congr i
  · exact Sent.channelRelease h.congr i
  · exact h

protected theorem Sent.sequenceDispatch (h : Sent P ws s) (i : Nat) (m : Bool) :
    Sent P ws (sequenceDispatch P i m s) := by
  have hfree : Sent P ws (poolRelease i s) := h.congr
  unfold sequenceDispatch
  split
  · split
    · exact Sent.deliver h.congr i
    · exact hfree.sendAck m
  · split
    · exact hfree
    · exact hfree.congr

protected theorem Sent.dispatch (h : Sent P ws s) (i : Nat) : Sent P ws (dispatch P i s) := by
  have hfree : Sent P ws (poolRelease i s) := h.congr
  unfold dispatch
  dsimp only
  split
  · exact hfree.congr
  · split
    · exact hfree.txAck _
    · split
      · exact h.sequenceDispatch i _
      · exact hfree.sendReset _

/-- A stored frame's byte count is that of the accepted frame (rule R161). -/
protected theorem Sent.storeFrame (h : Sent P ws s) {f : RawFrame} (hf : f.pay.length ≤ P.maxpay)
    (i : Nat) : Sent P ws (storeFrame P i f s) := by
  have hstore : ∀ {u : State}, Sent P ws u → Sent P ws (storeBytes P i 0 f.pay u) :=
    fun hu => hu.congr
  exact hstore (h.setSlot hf i)

protected theorem Sent.receive {v : Option RawFrame} (h : Sent P ws s)
    (hv : ∀ f, v = some f → f.pay.length ≤ P.maxpay) : Sent P ws (receive P v s) := by
  rcases receive_cases P v s with ⟨-, he⟩ | ⟨i, rest, -, -, he⟩ | ⟨i, rest, f, -, hfv, he⟩
  · exact he ▸ h.congr
  · exact he ▸ h.congr
  · have hcleared : Sent P ws { accClear s with free := rest } := h.congr
    exact he ▸ (hcleared.storeFrame (hv f hfv) i).dispatch i

protected theorem Sent.rxByte (h : Sent P ws s) (b : Byte) : Sent P ws (rxByte P b s) := by
  unfold rxByte
  split
  · exact h.receive fun f => length_le_of_validate
  · split
    · exact h.congr
    · split <;> exact h.congr

protected theorem Sent.rxBytes (bs : List Byte) :
    ∀ {s : State}, Sent P ws s → Sent P ws (rxBytes P bs s) := by
  induction bs with
  | nil => exact id
  | cons b bs ih => exact fun h => ih (h.rxByte b)

protected theorem Sent.pollOp (h : Sent P ws s) : Sent P ws (pollOp P s) := by
  have hstart : Sent P ws { s with wireRx := [] } := h.congr
  have htimer := (hstart.rxBytes s.wireRx).txTimer
  unfold pollOp pollTimers
  exact htimer.congr

/-! ### The channel and data commands -/

protected theorem Sent.respond (h : Sent P ws s) (st : Status) (d : BitVec 16) :
    Sent P ws (respond st d s) :=
  h.congr

protected theorem Sent.chanCheck {b : Bool} (h : Sent P ws s)
    (ht : c < P.nchan → Sent P ws t) : Sent P ws (chanCheck P c b s t) := by
  rcases chanCheck_cases P c b s t with he | ⟨hc, -, he⟩
  · exact he ▸ h.respond _ _
  · rw [he]
    exact ht hc

protected theorem Sent.openOp (h : Sent P ws s) (ch : Byte) : Sent P ws (openOp P ch s) := by
  refine h.chanCheck fun _ => ?_
  split <;> exact h.congr

protected theorem Sent.closeOp (h : Sent P ws s) (ch : Byte) : Sent P ws (closeOp P ch s) := by
  have hreleased := Sent.releaseAll (chanOf ch.toNat s).inq
    (h.congr (t := releaseAsm (chanOf ch.toNat s).asm s))
  exact h.chanCheck fun _ => hreleased.congr

protected theorem Sent.txAcquire (h : Sent P ws s) (ha : txAcquire P s = some (i, t)) :
    Sent P ws t := by
  obtain ⟨-, rest, -, rfl⟩ := txAcquire_eq_some.mp ha
  exact h.congr

/-- A new frame's slot is empty (rules R193 to R195). -/
theorem Sent.freshSlot (h : Sent P ws s) (i : Nat) (ch : Byte) (ct : CType) :
    Sent P ws (setSlot i (freshHeader ch ct) s) :=
  h.setSlot (Nat.zero_le _) i

protected theorem Sent.connectOp (h : Sent P ws s) (ch : Byte) (seconds : BitVec 16) :
    Sent P ws (connectOp P ch seconds s) := by
  refine h.chanCheck fun _ => ?_
  split
  · exact h.respond _ _
  · exact h.respond _ _
  · exact h.respond _ _
  · split
    · exact h.respond _ _
    · rename_i i t ha
      have hfresh := (h.txAcquire ha).freshSlot i ch .connreq
      exact (Sent.submit hfresh.congr i).respond _ _

protected theorem Sent.disconnectOp (h : Sent P ws s) (ch : Byte) :
    Sent P ws (disconnectOp P ch s) := by
  refine h.chanCheck fun _ => ?_
  split
  · exact h.respond _ _
  · exact h.respond _ _
  · exact h.respond _ _
  · split
    · exact h.respond _ _
    · rename_i i t ha
      have hfresh := ((h.txAcquire ha).submitAsm (chanOf ch.toNat s).asm).freshSlot i ch .discreq
      exact (Sent.submit hfresh.congr i).respond _ _

/-- A byte is appended below the capacity, so the count stays in range (rule R195). -/
protected theorem Sent.appendByte (h : Sent P ws s) (hlen : (slotOf i s).len < P.maxpay) (c : Nat)
    (v : Byte) : Sent P ws (appendByte P c i v s) := by
  have hbyte : Sent P ws (memWrite P i (slotOf i s).len v s) := h.congr
  have hslot := hbyte.setSlot (d := { slotOf i s with len := (slotOf i s).len + 1 }) hlen i
  unfold appendByte
  dsimp only
  split
  · exact (hslot.submit i).congr
  · exact hslot.congr

/-- WRITE appends to an assembly buffer, which is not full (rule R40), or to an empty slot. -/
protected theorem Sent.writeOp (h : Sent P ws s) (hb : Busy P [] [] [] s) (ch v : Byte) :
    Sent P ws (writeOp P ch v s) := by
  refine h.chanCheck fun hc => ?_
  split
  · exact h.respond _ _
  · split
    · rename_i a ha
      obtain ⟨-, hok⟩ := hb.chanOf_ok hc
      obtain ⟨-, -, -, -, hlen⟩ := hok.assembly a ha
      exact (h.appendByte hlen _ v).respond _ _
    · split
      · exact h.respond _ _
      · rename_i i t ha
        obtain ⟨-, hempty⟩ := (hb.txAcquire ha).freshSlot ch .noop
        have hlen : (slotOf i (setSlot i (freshHeader ch .noop) t)).len < P.maxpay := by
          rw [hempty]
          exact P.maxpay_pos
        exact (((h.txAcquire ha).freshSlot i ch .noop).appendByte hlen _ v).respond _ _

protected theorem Sent.flushOp (h : Sent P ws s) (ch : Byte) : Sent P ws (flushOp P ch s) := by
  refine h.chanCheck fun _ => ?_
  split
  · exact h.respond _ _
  · rename_i a _
    exact (h.submit a).congr

/-- READ of a slot's last byte may send an acknowledgment (rules R166, R197). -/
protected theorem Sent.readOp (h : Sent P ws s) (ch : Byte) : Sent P ws (readOp P ch s) := by
  refine h.chanCheck fun _ => ?_
  split
  · exact h.respond _ _
  · refine Sent.respond ?_ _ _
    split
    · exact Sent.channelRelease h.congr _
    · exact h.congr

protected theorem Sent.peekOp (h : Sent P ws s) (ch : Byte) : Sent P ws (peekOp P ch s) := by
  obtain ⟨st, d, he⟩ := (observes_peek P ch).answers s
  exact he ▸ h.respond st d

/-! ### Steps -/

/-- Every well-formed instruction, command or received frame, emits messages of frames alone. -/
theorem exec_keeps_sent (h : Sent Config.params ws s) (hb : Busy Config.params [] [] [] s) :
    ∀ i : Instr, i.wellFormed Config.params = true →
      ∃ t, exec i s = .next t ∧ Sent Config.params ws t
  | .poll, _ => ⟨_, rfl, h.pollOp⟩
  | .openChan ch, _ => ⟨_, rfl, h.openOp ch⟩
  | .closeChan ch, _ => ⟨_, rfl, h.closeOp ch⟩
  | .connect ch sec, _ => ⟨_, rfl, h.connectOp ch sec⟩
  | .disconnect ch, _ => ⟨_, rfl, h.disconnectOp ch⟩
  | .write ch v, _ => ⟨_, rfl, h.writeOp hb ch v⟩
  | .flush ch, _ => ⟨_, rfl, h.flushOp ch⟩
  | .read ch, _ => ⟨_, rfl, h.readOp ch⟩
  | .peek ch, _ => ⟨_, rfl, h.peekOp ch⟩
  | .avail _, _ | .status _, _ => ⟨_, rfl, h.chanCheck fun _ => h.respond _ _⟩
  | .nop, _ | .linkstat, _ | .reserved0D, _ | .reserved0E0F _, _ | .reserved101F _, _
  | .reserved203F _, _ | .reserved407F _, _ | .reserved80FF _, _ => ⟨_, rfl, h.respond _ _⟩
  | .frameReservedC2 _ _ _ _, hw | .frameReservedC3 _ _ _ _, hw | .frameReservedC4 _ _ _ _, hw
  | .frameReservedC5 _ _ _ _, hw | .frameReservedC6 _ _ _ _, hw | .frameReservedC7 _ _ _ _, hw
  | .frameReservedA2 _ _ _ _, hw | .frameReservedA3 _ _ _ _, hw | .frameReservedA4 _ _ _ _, hw
  | .frameReservedA5 _ _ _ _, hw | .frameReservedA6 _ _ _ _, hw | .frameReservedA7 _ _ _ _, hw
  | .ack0 _ _ _, hw | .ack1 _ _ _, hw =>
    have hfits := of_decide_eq_true (Bool.and_eq_true_iff.mp hw).1
    ⟨_, rfl, h.receive fun _ => length_le_of_acceptTags hfits⟩
  | .frameReset _ _ _, hw | .data0Noop _ _, hw | .data1Noop _ _, hw | .data0Connreq _ _, hw
  | .data1Connreq _ _, hw | .data0Discreq _ _, hw | .data1Discreq _ _, hw =>
    ⟨_, rfl, h.receive fun _ => length_le_of_acceptTags (of_decide_eq_true hw)⟩

/-- Settles O59: what a step emits are messages of frames that fit, which a like endpoint accepts. -/
theorem everyEmittedMessageIsAValidFrame : Obligations.EveryEmittedMessageIsAValidFrame := by
  intro s t hwf hst
  have hstart : Sent Config.params s.wireTx s := ⟨hwf.lengths, [], by simp, by simp⟩
  obtain ⟨u, hu, hsent⟩ := exec_keeps_sent hstart (busy_nil_iff.mpr hwf) _
    (decodeCommand_wellFormed Config.params s.cmd)
  obtain rfl : u = t := Host.Outcome.next.inj (hu.symm.trans hst)
  obtain ⟨ms, hw, hms⟩ := hsent.messages
  refine ⟨ms, hw, fun m hm => ?_⟩
  obtain ⟨f, hfits, htags, rfl⟩ := hms m hm
  exact ⟨_, f, rfl, rfl, encode_fits _ f hfits, validate_encode hfits htags⟩

end Sys2Proof.Machine
end

section
/-!
PROOFS. The transmit half (41_arq_transmit.md). Each state that an acknowledgment leads to is an update of
the state in which the ACK frame has taken its slot round `FREE` (`turned`): nothing further for a stale
one, `acknowledged` for the awaited one, and the start of the next frame behind that. That nothing is sent
past a frame in flight is kept operation by operation (`Held`).
-/

namespace Sys2Proof.Machine

variable {P : Params} {s s₀ t : State} {h i j : Nat} {m : Bool} {q rest : List Nat} {f : RawFrame}

/-! ### The messages built from constants (rules R147 to R149) -/

/-- The message of a frame without payload: three tag bytes, and the checksum's upper and lower byte. -/
theorem message_raw_nil (P : Params) (chan : Byte) (ct : CType) (aty : AType) :
    message P (raw P chan ct aty []) =
      P.encode ([chan, ct.byte, aty.byte] ++
        [(P.crc16 [chan, ct.byte, aty.byte] >>> 8).setWidth 8,
          (P.crc16 [chan, ct.byte, aty.byte]).setWidth 8]) ++ [P.eom] := rfl

/-- Settles O5: `ATYPE` is 1 or 3 by the sequence, the other tag bytes are constants. -/
theorem ackAndResetMessagesAreBuiltFromConstants :
    Obligations.AckAndResetMessagesAreBuiltFromConstants := by
  intro P n chan
  have htag : (AType.ack n).byte = if n then 3 else 1 := by cases n <;> rfl
  refine ⟨?_, message_raw_nil P chan .reset (.data false)⟩
  rw [← htag]
  exact message_raw_nil P 0 .noop (.ack n)

/-! ### An ACK frame's turn through `FREE` (rules R161, R163) -/

/-- The state in which an ACK frame is acted on: it was stored, and its slot released. -/
def turned (P : Params) (j : Nat) (rest : List Nat) (f : RawFrame) (s : State) : State :=
  poolRelease j (stored P j rest f s)

theorem turned_eq (P : Params) (j : Nat) (rest : List Nat) (f : RawFrame) (s : State) :
    turned P j rest f s =
      { s with
        hdr := (turned P j rest f s).hdr
        pay := (turned P j rest f s).pay
        free := rest ++ [j]
        accLen := 0
        accOvf := false } :=
  congrArg (poolRelease j) (stored_eq P j rest f s)

theorem storedIn_turned (hf : f.pay.length ≤ P.maxpay) :
    StoredIn P j f.pay.length s (turned P j rest f s) :=
  storedIn_stored P j rest f s hf

/-- An ACK frame with a legal tag but RESET runs `TxAck`, whatever its channel id and payload. -/
theorem exec_ack {chan : Byte} {ct : CType} {pay : List Byte} (hct : ct ≠ .reset)
    (hfree : s.free = j :: rest) (hj : j < s.hdr.length) :
    exec (if m then .ack1 chan ct pay else .ack0 chan ct pay) s =
      .next (txAck Config.params m
        (turned Config.params j rest ⟨chan, ct.byte, (AType.ack m).byte, pay⟩ s)) := by
  have hexec : exec (if m then .ack1 chan ct pay else .ack0 chan ct pay) s =
      .next (receiveFrame Config.params ⟨chan, ct.byte, (AType.ack m).byte, pay⟩ s) := by
    cases m <;> rfl
  rw [hexec, receiveFrame_ack m hct hfree hj, turned]

/-! ### `TxAck` (rules R143, R145) -/

/-- An acknowledgment that is not awaited does nothing (rule R145). -/
theorem txAck_stale (hstale : s.txState.phase = false ∨ s.txState.seq ≠ m) : txAck P m s = s := by
  unfold txAck
  split
  · rename_i n _ _ hw _
    rw [hw] at hstale
    rcases hstale with hphase | hseq
    · simp [TxState.phase] at hphase
    · exact if_neg hseq
  · rfl
  · rfl

/-- The head `h` of the queue is acknowledged, and `q` is left behind it (rules R143, R202, R204). -/
def acknowledged (h : Nat) (q : List Nat) (m : Bool) (s : State) : State :=
  { s with
    free := s.free ++ [h]
    txq := q
    txState := .rdy (!m)
    ch := s.ch.modify (slotOf h s).chan.toNat (ackedChannel (slotOf h s).ctype) }

/-- The awaited acknowledgment (rule R143). -/
theorem txAck_awaited (hw : s.txState = .wait m) (hq : s.txq = h :: q)
    (hch : s.ch.length ≤ P.nchan) : txAck P m s = sendNext P (acknowledged h q m s) := by
  rw [txAck_matching hw hq]
  exact congrArg (sendNext P) (ackEvent_eq _ _ hch)

theorem txAck_turned (hw : s.txState = .wait m) (hq : s.txq = h :: q)
    (hch : s.ch.length ≤ P.nchan) :
    txAck P m (turned P j rest f s) = sendNext P (acknowledged h q m (turned P j rest f s)) :=
  txAck_awaited (by rw [turned_eq, hw]) (by rw [turned_eq, hq]) (by rwa [turned_eq])

/-- The acknowledged frame's slot is not the ACK's, so its channel is the one it named before. -/
theorem acknowledged_turned_eq (hne : h ≠ j) :
    acknowledged h q m (turned P j rest f s) =
      { s with
        hdr := (turned P j rest f s).hdr
        pay := (turned P j rest f s).pay
        free := rest ++ [j, h]
        txq := q
        txState := .rdy (!m)
        accLen := 0
        accOvf := false
        ch := s.ch.modify (slotOf h s).chan.toNat (ackedChannel (slotOf h s).ctype) } := by
  have hslot : slotOf h (turned P j rest f s) = slotOf h s := slotOf_stored_ne f hne
  unfold acknowledged
  rw [hslot, turned_eq]
  simp

/-- Settles O36: after the slot's turn, `TxAck` does nothing. -/
theorem staleAckHasNoEffect : Obligations.StaleAckHasNoEffect := by
  intro chan ct pay m s j rest hct hpay hfree hj hstale
  refine ⟨turned Config.params j rest ⟨chan, ct.byte, (AType.ack m).byte, pay⟩ s, ?_,
    storedIn_turned hpay, turned_eq ..⟩
  rw [exec_ack hct hfree hj, txAck_stale]
  rwa [turned_eq]

/-- Settles O34: with nothing queued behind the acknowledged frame, `TxAck` ends there. -/
theorem ackEndsTheTransmission : Obligations.AckEndsTheTransmission := by
  intro chan ct pay m s h j rest hct hpay hfree hj hne hw hq hch
  refine ⟨acknowledged h [] m
      (turned Config.params j rest ⟨chan, ct.byte, (AType.ack m).byte, pay⟩ s), ?_,
    storedIn_turned hpay, acknowledged_turned_eq hne⟩
  rw [exec_ack hct hfree hj, txAck_turned hw hq hch]
  rfl

/-! ### `StartSend` (rule R142) -/

/-- `StartSend` writes the sequence into the head's header, and no other header or byte. -/
theorem startSend_slots (hq : s.txq = i :: q) (hi : i < s.hdr.length) :
    (startSend P s).hdr.length = s.hdr.length ∧
      slotOf i (startSend P s) = { slotOf i s with atype := .data s.txState.seq } ∧
      (∀ k, k ≠ i → slotOf k (startSend P s) = slotOf k s) ∧
      ∀ k o, memRead P k o (startSend P s) = memRead P k o s := by
  rw [startSend_of_cons hq]
  exact ⟨List.length_set .., slotOf_setSlot_self _ hi, fun _ hk => slotOf_setSlot_ne _ s hk.symm,
    fun _ _ => rfl⟩

/-- Settles O35: behind the acknowledged frame, `StartSend` finds the next one's slot as it was, since the
ACK was stored in another. -/
theorem ackSendsTheNextFrame : Obligations.AckSendsTheNextFrame := by
  intro chan ct pay m s h g j q rest hct hpay hfree hj hne hgj hg hlen hw hq hch
  have hmax := Config.params.maxpay_le
  obtain ⟨u, hu⟩ : ∃ u, u = acknowledged h (g :: q) m
      (turned Config.params j rest ⟨chan, ct.byte, (AType.ack m).byte, pay⟩ s) := ⟨_, rfl⟩
  have htxq : u.txq = g :: q := by rw [hu]; rfl
  have htx : u.txState = .rdy (!m) := by rw [hu]; rfl
  obtain ⟨hlength, hslots, hbytes⟩ : StoredIn Config.params j pay.length s u :=
    hu ▸ storedIn_turned hpay
  have hgu : g < u.hdr.length := hlength ▸ hg
  have hpayload : payload Config.params g (slotOf g s).len u =
      payload Config.params g (slotOf g s).len s := by
    rw [hu]
    exact payload_stored_ne Config.params rest _ s hpay hgj (by omega)
  obtain ⟨hlength', hhead, hslots', hbytes'⟩ := startSend_slots (P := Config.params) htxq hgu
  refine ⟨startSend Config.params u, ?_, hlength'.trans hlength, ?_, ?_, ?_, ?_⟩
  · rw [exec_ack hct hfree hj, txAck_turned hw hq hch, ← hu, sendNext, htxq]
  · rw [hhead, hslots g hgj, htx]
    rfl
  · exact fun k hkj hkg => (hslots' k hkg).trans (hslots k hkj)
  · exact fun k o ho hout => (hbytes' k o).trans (hbytes k o ho hout)
  · rw [startSend_of_head htxq hgu (hslots g hgj) htx, hpayload, hu, acknowledged_turned_eq hne]

/-! ### At most one frame in flight (rule R141) -/

/-- Since `s₀`, where a frame was in flight, nothing was emitted, the transmitter waits as it did, and slots
joined the end of `TXQ` alone. -/
structure Held (s₀ s : State) : Prop where
  waiting : s.txState.phase = true
  wireTx : s.wireTx = s₀.wireTx
  txState : s.txState = s₀.txState
  txq : ∃ q, s.txq = s₀.txq ++ q

/-- An update that neither emits nor touches the transmitter's state and queue. -/
theorem Held.congr (hs : Held s₀ s) (hwire : t.wireTx = s.wireTx := by simp)
    (htx : t.txState = s.txState := by simp) (htxq : t.txq = s.txq := by simp) : Held s₀ t where
  waiting := htx ▸ hs.waiting
  wireTx := hwire.trans hs.wireTx
  txState := htx.trans hs.txState
  txq := htxq ▸ hs.txq

protected theorem Held.respond (hs : Held s₀ s) (st : Status) (d : BitVec 16) :
    Held s₀ (respond st d s) :=
  hs.congr

/-- `Submit` behind a frame in flight queues the slot (rule R140). -/
protected theorem Held.submit (hs : Held s₀ s) (P : Params) (i : Nat) : Held s₀ (submit P i s) := by
  rw [submit_waiting i hs.waiting]
  obtain ⟨q, hq⟩ := hs.txq
  exact { hs with txq := ⟨q ++ [i], by simp [hq]⟩ }

protected theorem Held.submitAsm (hs : Held s₀ s) (P : Params) (asm : Option Nat) :
    Held s₀ (submitAsm P asm s) := by
  cases asm with
  | none => exact hs
  | some a => exact hs.submit P a

protected theorem Held.txAcquire (hs : Held s₀ s) (ha : txAcquire P s = some (i, t)) :
    Held s₀ t := by
  obtain ⟨-, rest, -, rfl⟩ := txAcquire_eq_some.mp ha
  exact hs.congr

protected theorem Held.chanCheck {c : Nat} {b : Bool} (hs : Held s₀ s) (ht : Held s₀ t) :
    Held s₀ (chanCheck P c b s t) := by
  rcases chanCheck_cases P c b s t with he | ⟨-, -, he⟩
  · exact he ▸ hs.respond _ _
  · rwa [he]

protected theorem Held.openOp (hs : Held s₀ s) (ch : Byte) : Held s₀ (openOp P ch s) := by
  refine hs.chanCheck ?_
  split <;> exact hs.congr

protected theorem Held.connectOp (hs : Held s₀ s) (ch : Byte) (seconds : BitVec 16) :
    Held s₀ (connectOp P ch seconds s) := by
  refine hs.chanCheck ?_
  split
  · exact hs.respond _ _
  · exact hs.respond _ _
  · exact hs.respond _ _
  · split
    · exact hs.respond _ _
    · rename_i i t ha
      exact (Held.submit (hs.txAcquire ha).congr P i).respond _ _

protected theorem Held.disconnectOp (hs : Held s₀ s) (ch : Byte) :
    Held s₀ (disconnectOp P ch s) := by
  refine hs.chanCheck ?_
  split
  · exact hs.respond _ _
  · exact hs.respond _ _
  · exact hs.respond _ _
  · split
    · exact hs.respond _ _
    · rename_i i t ha
      have hasm := (hs.txAcquire ha).submitAsm P (chanOf ch.toNat s).asm
      exact (Held.submit hasm.congr P i).respond _ _

protected theorem Held.appendByte (hs : Held s₀ s) (c a : Nat) (v : Byte) :
    Held s₀ (appendByte P c a v s) := by
  have hslot : Held s₀ (setSlot a { slotOf a s with len := (slotOf a s).len + 1 }
      (memWrite P a (slotOf a s).len v s)) := hs.congr
  unfold appendByte
  dsimp only
  split
  · exact (hslot.submit P a).congr
  · exact hslot.congr

protected theorem Held.writeOp (hs : Held s₀ s) (ch v : Byte) : Held s₀ (writeOp P ch v s) := by
  refine hs.chanCheck ?_
  split
  · exact hs.respond _ _
  · split
    · exact (hs.appendByte _ _ v).respond _ _
    · split
      · exact hs.respond _ _
      · rename_i i t ha
        exact (Held.appendByte (hs.txAcquire ha).congr _ i v).respond _ _

protected theorem Held.flushOp (hs : Held s₀ s) (ch : Byte) : Held s₀ (flushOp P ch s) := by
  refine hs.chanCheck ?_
  split
  · exact hs.respond _ _
  · rename_i a _
    exact (hs.submit P a).congr

protected theorem Held.peekOp (hs : Held s₀ s) (ch : Byte) : Held s₀ (peekOp P ch s) := by
  obtain ⟨st, d, he⟩ := (observes_peek P ch).answers s
  exact he ▸ hs.respond st d

/-- No command that stays out of the receive half sends anything past the frame in flight. -/
theorem exec_keeps_held (hs : Held s₀ s) {k : Instr} (hscope : (scopeOf k).receives = false) :
    ∃ t, exec k s = .next t ∧ Held s₀ t := by
  cases k with
  | openChan ch => exact ⟨_, rfl, hs.openOp ch⟩
  | connect ch sec => exact ⟨_, rfl, hs.connectOp ch sec⟩
  | disconnect ch => exact ⟨_, rfl, hs.disconnectOp ch⟩
  | write ch v => exact ⟨_, rfl, hs.writeOp ch v⟩
  | flush ch => exact ⟨_, rfl, hs.flushOp ch⟩
  | peek ch => exact ⟨_, rfl, hs.peekOp ch⟩
  | avail | status => exact ⟨_, rfl, hs.chanCheck (hs.respond _ _)⟩
  | nop | linkstat | reserved0D | reserved0E0F | reserved101F | reserved203F | reserved407F
  | reserved80FF => exact ⟨_, rfl, hs.respond _ _⟩
  | _ => cases hscope

/-- Settles O56: the commands but POLL, READ and CLOSE stay out of the receive half. -/
theorem nothingNewIsSentWhileAFrameIsInFlight :
    Obligations.NothingNewIsSentWhileAFrameIsInFlight := by
  intro i s t hst hphase hcommand hpoll hread hclose
  have hstart : Held s s := ⟨hphase, rfl, rfl, [], by simp⟩
  obtain ⟨u, hu, hheld⟩ :=
    exec_keeps_held hstart (scopeOf_receives hcommand hpoll hread hclose)
  obtain rfl : u = t := Host.Outcome.next.inj (hu.symm.trans hst)
  exact ⟨hheld.wireTx, hheld.txState, hheld.txq⟩

end Sys2Proof.Machine
end

section
/-!
PROOFS. The receive half (42_arq_receive.md). A received message is taken apart where the rules do: its
bytes are `collected` in the accumulator, `Validate` turns its text into a frame, and the terminator does
what the frame's kind means (`exec_classify`). From there each row of the dispatch table of rule R164 is an
update of the state that holds the stored frame: its slot goes round `FREE` (`turned`), or the frame is
taken and awaits its slot's return (`accepted`). That a slot is free behind whatever is sent is kept
operation by operation (`FreeIfSent`).
-/

namespace Sys2Proof.Machine

variable {P : Params} {s t : State} {j : Nat} {rest : List Nat} {chan : Byte} {ct : CType}
  {aty : AType} {pay : List Byte} {i : Instr} {m : Bool} {f : RawFrame}

/-! ### `Validate` (rule R162) -/

/-- The checks accept exactly the raw frames of frames that fit. -/
theorem checkRaw_eq_ok_iff {r : List Byte} :
    checkRaw P r = .ok f ↔ rawFrame P f = r ∧ f.pay.length ≤ P.maxpay := by
  constructor
  · exact rawFrame_of_checkRaw
  · rintro ⟨rfl, hfits⟩
    exact checkRaw_rawFrame P f hfits

theorem checkMessage_eq_ok_iff {e : List Byte} {ovf : Bool} :
    checkMessage P e ovf = .ok f ↔
      ovf = false ∧ ∃ r, P.decode e = some r ∧ checkRaw P r = .ok f := by
  cases ovf with
  | true => simp [checkMessage]
  | false => cases hd : P.decode e <;> simp [checkMessage, hd]

theorem acceptTags_eq_some_iff {g : RawFrame} :
    acceptTags g = some f ↔ g = f ∧ tagsValid f = true := by
  simp only [acceptTags, Option.ite_none_right_eq_some, Option.some.injEq]
  constructor
  · rintro ⟨htags, rfl⟩
    exact ⟨rfl, htags⟩
  · rintro ⟨rfl, htags⟩
    exact ⟨htags, rfl⟩

/-- A message is accepted if it passes the checks up to the checksum, and its tags are legal. -/
theorem validate_eq_some_iff {e : List Byte} {ovf : Bool} :
    validate P e ovf = some f ↔ checkMessage P e ovf = .ok f ∧ tagsValid f = true := by
  unfold validate
  cases hc : checkMessage P e ovf with
  | error d => simp
  | ok g => simp [acceptTags_eq_some_iff]

theorem tagsValid_iff : tagsValid f = true ↔ f.ctype.toNat < 4 ∧ f.atype.toNat < 4 := by
  simp [tagsValid, reservedClear]

/-- Five bytes or more are a header, a payload and two bytes more (rule R98). -/
theorem exists_covered_append {r : List Byte} (h : 5 ≤ r.length) :
    ∃ (g : RawFrame) (hi lo : Byte), r = g.covered ++ [hi, lo] := by
  match r, h with
  | chan :: ctype :: atype :: rest, h =>
    have htail : (rest.drop (rest.length - 2)).length = 2 := by
      simp only [List.length_cons] at h
      simp only [List.length_drop]
      omega
    obtain ⟨hi, lo, hdrop⟩ := List.length_eq_two.mp htail
    refine ⟨⟨chan, ctype, atype, rest.take (rest.length - 2)⟩, hi, lo, ?_⟩
    simp [RawFrame.covered, ← hdrop]

/-- Two bytes are a checksum's, most significant first, if they are its number's digits (rules R64,
R102). -/
theorem checksum_bytes_iff {c : BitVec 16} {hi lo : Byte} :
    c.extractLsb' 8 8 = hi ∧ c.extractLsb' 0 8 = lo ↔ c.toNat = hi.toNat * 256 + lo.toNat := by
  constructor
  · rintro ⟨rfl, rfl⟩
    exact (congrArg BitVec.toNat (checksum_bytes c)).symm.trans (append_toNat _ _)
  · intro h
    have hlo := lo.isLt
    have hhi := hi.isLt
    constructor
    · apply BitVec.eq_of_toNat_eq
      rw [BitVec.extractLsb'_toNat, Nat.shiftRight_eq_div_pow]
      omega
    · apply BitVec.eq_of_toNat_eq
      rw [BitVec.extractLsb'_toNat, Nat.shiftRight_eq_div_pow]
      omega

/-- A header, a payload and two bytes more are a raw frame if the two bytes are the checksum. -/
theorem rawFrame_eq_append_iff {g : RawFrame} {hi lo : Byte} :
    rawFrame P f = g.covered ++ [hi, lo] ↔
      f = g ∧ (P.crc16 g.covered).toNat = hi.toNat * 256 + lo.toNat := by
  have hcovered : f.covered = g.covered ↔ f = g := by
    cases f
    cases g
    simp [RawFrame.covered]
  rw [rawFrame, List.append_eq_append_iff_of_size_eq_right (by simp), hcovered,
    ← checksum_bytes_iff]
  constructor
  · rintro ⟨rfl, hbytes⟩
    simpa using hbytes
  · rintro ⟨rfl, rfl, rfl⟩
    simp

/-- Where the fields stand in the bytes of a frame (rules R98, R162). -/
theorem fields_of_eq_covered_append {r : List Byte} {g : RawFrame} {hi lo : Byte}
    (hr : r = g.covered ++ [hi, lo]) :
    r.length = g.pay.length + 5 ∧ r.take (r.length - 2) = g.covered ∧
      r.getD (r.length - 2) 0 = hi ∧ r.getD (r.length - 1) 0 = lo ∧
      r.getD 1 0 = g.ctype ∧ r.getD 2 0 = g.atype ∧
      (⟨r.getD 0 0, r.getD 1 0, r.getD 2 0, (r.drop 3).take (r.length - 5)⟩ : RawFrame) = g := by
  subst hr
  simp [RawFrame.covered]

/-- Bytes are the raw frame of a frame that fits and has legal tags if they pass the checks of rule R162
one by one. -/
theorem rawFrame_eq_iff_checks {r : List Byte} :
    (rawFrame P f = r ∧ f.pay.length ≤ P.maxpay) ∧ tagsValid f = true ↔
      5 ≤ r.length ∧ r.length ≤ P.maxpay + 5 ∧
        (P.crc16 (r.take (r.length - 2))).toNat =
          (r.getD (r.length - 2) 0).toNat * 256 + (r.getD (r.length - 1) 0).toNat ∧
        (r.getD 1 0).toNat < 4 ∧ (r.getD 2 0).toNat < 4 ∧
        f = ⟨r.getD 0 0, r.getD 1 0, r.getD 2 0, (r.drop 3).take (r.length - 5)⟩ := by
  by_cases hmin : 5 ≤ r.length
  · obtain ⟨g, hi, lo, hr⟩ := exists_covered_append hmin
    obtain ⟨hlen, htake, hhi, hlo, hctype, hatype, hfields⟩ := fields_of_eq_covered_append hr
    rw [hfields, hctype, hatype, htake, hhi, hlo, tagsValid_iff, hr, rawFrame_eq_append_iff, ← hr,
      hlen]
    constructor
    · rintro ⟨⟨⟨rfl, hcrc⟩, hfits⟩, hct, hat⟩
      exact ⟨by omega, by omega, hcrc, hct, hat, rfl⟩
    · rintro ⟨-, hfits, hcrc, hct, hat, rfl⟩
      exact ⟨⟨⟨rfl, hcrc⟩, by omega⟩, hct, hat⟩
  · have hne : rawFrame P f ≠ r := fun h => hmin (by rw [← h, length_rawFrame]; omega)
    simp [hne, hmin]

/-- Settles O6: the accepted texts are those that decode to the raw frame of such a frame. -/
theorem validateAcceptsExactlyTheGoodMessages :
    Obligations.ValidateAcceptsExactlyTheGoodMessages := by
  intro P e ovf f
  simp only [validate_eq_some_iff, checkMessage_eq_ok_iff, checkRaw_eq_ok_iff, and_assoc,
    ← exists_and_right]
  refine and_congr_right fun _ => exists_congr fun r => and_congr_right fun _ => ?_
  rw [← and_assoc]
  exact rawFrame_eq_iff_checks

/-! ### The kind of a frame is what its terminator does (rules R103, R104, R161) -/

theorem exec_frameKind (chan : Byte) (ct : CType) (aty : AType) (pay : List Byte) (s : State) :
    exec (frameKind chan ct aty pay) s =
      .next (receiveFrame Config.params ⟨chan, ct.byte, aty.byte, pay⟩ s) := by
  rcases aty with n | n
  all_goals cases ct <;> cases n <;> rfl

/-- A frame that fits is executed as the kind it is of. -/
theorem exec_classify (hfits : f.pay.length ≤ P.maxpay) (s : State) :
    exec (classify f) s = .next (receiveFrame Config.params f s) := by
  cases htags : tagsValid f with
  | false =>
    obtain ⟨i, hi, hw⟩ := exists_reservedFrame htags hfits
    obtain ⟨rfl, -, -⟩ := classify_reserved hi hw
    exact exec_reserved hi s
  | true =>
    obtain ⟨hc, ha⟩ := Bool.and_eq_true_iff.mp htags
    have hf : f = ⟨f.chan, (CType.ofByte f.ctype).byte, (AType.ofByte f.atype).byte, f.pay⟩ := by
      rw [CType.byte_ofByte hc, AType.byte_ofByte ha]
    rw [hf, classify_tags]
    exact exec_frameKind _ _ _ _ s

/-- Settles O9: the terminator runs the same checks, and receives the frame they give. -/
theorem frameMeaningIsItsMessagesMeaning : Obligations.FrameMeaningIsItsMessagesMeaning := by
  intro s i hdecode
  cases hf : checkMessage Config.params (accumulated Config.params s) s.accOvf with
  | error e => simp [decodeMessage, hf, Except.map] at hdecode
  | ok f =>
    obtain rfl : classify f = i := by simpa [decodeMessage, hf, Except.map] using hdecode
    obtain ⟨-, r, -, hr⟩ := checkMessage_eq_ok_iff.mp hf
    rw [exec_classify (rawFrame_of_checkRaw hr).2]
    simp only [rxMessage, validate, hf, receiveFrame]

/-! ### Received bytes (rules R160, R114) -/

/-- A stored byte reads back, and no other is changed (rule R160). -/
theorem read_accPush (P : Params) (b : Byte) (s : State) (o : Nat) :
    Memory.read (accBlank P s) (accPush P b s).acc o =
      if o = s.accLen then b else Memory.read (accBlank P s) s.acc o :=
  Memory.read_write _ _ _ _ _

/-- What data bytes leave: those that fit are accumulated, and `accOvf` tells that one did not. -/
def collected (P : Params) (bs : List Byte) (s : State) : State :=
  { accPushes P (bs.take (P.accCap - s.accLen)) s with
    accOvf := s.accOvf || decide (P.accCap < s.accLen + bs.length) }

/-- Data bytes fill the accumulator, and find it full from then on (rule R160). -/
theorem rxBytes_collected {bs : List Byte} (hdata : ∀ b ∈ bs, b ≠ P.eom ∧ b ≠ P.som)
    (hlen : s.accLen ≤ P.accCap) : rxBytes P bs s = collected P bs s := by
  have hfits : ∀ b ∈ bs.take (P.accCap - s.accLen), b ≠ P.som ∧ b ≠ P.eom :=
    fun b hb => (hdata b (List.mem_of_mem_take hb)).symm
  have hroom : s.accLen + (bs.take (P.accCap - s.accLen)).length ≤ P.accCap := by
    rw [List.length_take]
    omega
  conv_lhs => rw [← List.take_append_drop (P.accCap - s.accLen) bs, rxBytes_append,
    rxBytes_data hfits hroom]
  rcases Nat.lt_or_ge P.accCap (s.accLen + bs.length) with hover | hunder
  · have hrest : bs.drop (P.accCap - s.accLen) ≠ [] := by
      rw [ne_eq, List.drop_eq_nil_iff]
      omega
    rw [rxBytes_full fun b hb => hdata b (List.mem_of_mem_drop hb)]
    · simp [collected, accPushes_accOvf, hrest, hover]
    · rw [accPushes_eq, List.length_take]
      dsimp only
      omega
  · have hrest : bs.drop (P.accCap - s.accLen) = [] := by
      rw [List.drop_eq_nil_iff]
      omega
    rw [hrest, rxBytes, collected, decide_eq_false (Nat.not_lt.mpr hunder), Bool.or_false,
      ← accPushes_accOvf P (bs.take (P.accCap - s.accLen)) s]

theorem collected_eq (P : Params) (bs : List Byte) {s : State} (hlen : s.accLen ≤ P.accCap) :
    collected P bs s =
      { s with
        acc := (collected P bs s).acc
        accLen := min (s.accLen + bs.length) P.accCap
        accOvf := s.accOvf || decide (P.accCap < s.accLen + bs.length) } := by
  have hcount : s.accLen + (bs.take (P.accCap - s.accLen)).length =
      min (s.accLen + bs.length) P.accCap := by
    rw [List.length_take]
    omega
  rw [← hcount, collected, accPushes_eq]

theorem accumulated_collected (P : Params) (bs : List Byte) {s : State}
    (hlen : s.accLen ≤ P.accCap) :
    accumulated P (collected P bs s) = (accumulated P s ++ bs).take P.accCap := by
  have hold : (accumulated P s).take P.accCap = accumulated P s :=
    List.take_of_length_le (by rwa [length_accumulated])
  rw [List.take_append, hold, length_accumulated]
  exact accumulated_accPushes P _ s

/-- Data bytes that fit, and the terminator behind them (rule R160). -/
theorem rxBytes_message {bs : List Byte} (hdata : ∀ b ∈ bs, b ≠ P.som ∧ b ≠ P.eom)
    (hfits : s.accLen + bs.length ≤ P.accCap) :
    rxBytes P (bs ++ [P.eom]) s = rxMessage P (accPushes P bs s) := by
  rw [rxBytes_append, rxBytes_data hdata hfits, rxBytes, rxBytes, rxByte_eom]

/-! ### A message spread over POLLs (rules R47, R232) -/

/-- The timers leave the accumulator alone, unless the retransmission timer has expired at the ceiling
(rules R144, R262). -/
theorem pollTimers_accumulator
    (h : s.txState.phase = false ∨ elapsed P s s.txT0 < P.tRetx ∨ P.retryMax = 0 ∨
      s.txRetries.toNat < P.retryMax) :
    (pollTimers P s).acc = s.acc ∧ (pollTimers P s).accLen = s.accLen ∧
      (pollTimers P s).accOvf = s.accOvf := by
  have htimer : (txTimer P s).accLen = s.accLen ∧ (txTimer P s).accOvf = s.accOvf := by
    unfold txTimer
    split
    · rename_i hexpired
      split
      · rename_i hceiling
        simp only [expired, Bool.and_eq_true, decide_eq_true_eq] at hexpired
        simp only [atCeiling, Bool.and_eq_true, decide_eq_true_eq] at hceiling
        obtain ⟨hphase, helapsed⟩ := hexpired
        obtain ⟨hmax, hreached⟩ := hceiling
        rcases h with h | h | h | h
        · simp [h] at hphase
        · omega
        · exact absurd h hmax
        · omega
      · exact ⟨retransmit_accLen P s, retransmit_accOvf P s⟩
    · exact ⟨rfl, rfl⟩
  simpa [pollTimers] using htimer

/-- The text that a well-formed frame encodes fits the accumulator, and is a message of that frame. -/
theorem decodeMessage_of_encode {r : List Byte} (hr : encode P i = .frame r)
    (hw : i.wellFormed P = true) :
    (P.encode r).length ≤ P.accCap ∧ decodeMessage P (P.encode r) false = .ok i := by
  have hdecode : (checkRaw P r).map classify = .ok i := by
    have hround := decodeOfEncodeIsTheInstruction P i hw
    rwa [hr] at hround
  refine ⟨?_, by simpa [decodeMessage, checkMessage, P.decode_encode] using hdecode⟩
  cases hf : checkRaw P r with
  | error e => simp [hf, Except.map] at hdecode
  | ok f =>
    obtain ⟨rfl, hfits⟩ := rawFrame_of_checkRaw hf
    exact encode_fits P f hfits

/-- POLL takes the received bytes, then runs the timers (rule R232, log entry 11). -/
theorem exec_poll (s : State) :
    exec .poll s = .next (pollTimers Config.params
      (rxBytes Config.params s.wireRx { s with wireRx := [] })) := rfl

/-- Settles O13: data bytes are `collected`; behind the last of a frame's text, the terminator finds the
whole text. -/
theorem receivedBytesAccumulateUntilTheTerminator :
    Obligations.ReceivedBytesAccumulateUntilTheTerminator := by
  refine ⟨fun P b s => ⟨?_, ?_, fun heom hsom hroom => ?_, rxByte_full⟩, fun s hdata hlen => ?_, ?_⟩
  · rintro rfl
    exact rxByte_eom P s
  · rintro rfl
    exact rxByte_som P s
  · rw [rxByte_data heom hsom hroom]
    exact ⟨rfl, read_accPush P b s⟩
  · have heq := collected_eq Config.params s.wireRx (s := { s with wireRx := [] }) hlen
    refine ⟨collected Config.params s.wireRx { s with wireRx := [] }, heq,
      accumulated_collected Config.params s.wireRx (s := { s with wireRx := [] }) hlen, ?_,
      fun htimer => pollTimers_accumulator ?_⟩
    · rw [exec_poll, rxBytes_collected (s := { s with wireRx := [] }) hdata hlen]
    · rw [heq]
      exact htimer
  · intro s i r bs hr hw htext hovf hwire
    obtain ⟨hfits, hdecode⟩ := decodeMessage_of_encode hr hw
    have hlen : s.accLen + bs.length = (Config.params.encode r).length := by
      rw [← htext, List.length_append, length_accumulated]
    have hdata : ∀ b ∈ bs, b ≠ Config.params.som ∧ b ≠ Config.params.eom := fun b hb =>
      encode_no_delimiter Config.params r b (htext ▸ List.mem_append_right _ hb)
    have hacc : accumulated Config.params (accPushes Config.params bs { s with wireRx := [] }) =
        Config.params.encode r := (accumulated_accPushes ..).trans htext
    refine ⟨accPushes Config.params bs { s with wireRx := [] }, _,
      hlen ▸ accPushes_eq Config.params bs { s with wireRx := [] }, hacc,
      frameMeaningIsItsMessagesMeaning _ i ?_, ?_⟩
    · rw [hacc, accPushes_accOvf, hovf]
      exact hdecode
    · rw [exec_poll, hwire,
        rxBytes_message (s := { s with wireRx := [] }) hdata (hlen.trans_le hfits)]

/-! ### A RESET frame (rules R163, R262) -/

/-- A link reset in the state that holds a stored frame. -/
theorem linkReset_stored_eq (cause : ResetCause) (P : Params) (j : Nat) (rest : List Nat)
    (f : RawFrame) (s : State) :
    linkReset P cause (stored P j rest f s) =
      { s with
        hdr := (stored P j rest f s).hdr
        pay := (stored P j rest f s).pay
        txq := []
        free := List.range P.nbuf
        txState := .rdy false
        txRetries := 0
        rxState := .await false
        accLen := 0
        accOvf := false
        ch := s.ch.map linkResetChannel } :=
  congrArg (linkReset P cause) (stored_eq P j rest f s)

/-- Settles O33: after the frame is stored, its tag alone decides. -/
theorem resetFrameResetsTheLink : Obligations.ResetFrameResetsTheLink := by
  intro chan aty pay s j rest hpay hfree hj
  exact ⟨_, congrArg Host.Outcome.next (receiveFrame_reset aty hfree hj),
    storedIn_stored _ j rest ⟨chan, CType.reset.byte, aty.byte, pay⟩ s hpay,
    linkReset_stored_eq ..⟩

/-! ### The sequenced frames (rule R163 steps 3, 4) -/

/-- A sequenced frame carries its type, which is not RESET, and DATA of its sequence (rule R103). -/
theorem eq_frameKind_of_sequenced (hi : (i, ct, m) ∈ sequencedFrames chan pay) :
    ct ≠ .reset ∧ i = frameKind chan ct (.data m) pay := by
  simp only [sequencedFrames, List.mem_cons, Prod.mk.injEq, List.not_mem_nil, or_false] at hi
  rcases hi with ⟨rfl, rfl, rfl⟩ | ⟨rfl, rfl, rfl⟩ | ⟨rfl, rfl, rfl⟩ | ⟨rfl, rfl, rfl⟩ |
    ⟨rfl, rfl, rfl⟩ | ⟨rfl, rfl, rfl⟩
  all_goals exact ⟨by decide, rfl⟩

theorem exec_sequenced (hi : (i, ct, m) ∈ sequencedFrames chan pay) (s : State) :
    exec i s =
      .next (receiveFrame Config.params ⟨chan, ct.byte, (AType.data m).byte, pay⟩ s) := by
  obtain ⟨-, rfl⟩ := eq_frameKind_of_sequenced hi
  exact exec_frameKind chan ct (.data m) pay s

/-- The sequenced payload frame of either sequence. -/
theorem mem_sequencedFrames_noop (chan : Byte) (pay : List Byte) (m : Bool) :
    ((if m then .data1Noop chan pay else .data0Noop chan pay, .noop, m) : Instr × CType × Bool) ∈
      sequencedFrames chan pay := by
  cases m <;> simp [sequencedFrames]

theorem length_le_of_sequenced (hi : (i, ct, m) ∈ sequencedFrames chan pay)
    (hw : i.wellFormed P = true) : pay.length ≤ P.maxpay := by
  obtain ⟨hct, rfl⟩ := eq_frameKind_of_sequenced hi
  cases ct with
  | reset => exact absurd rfl hct
  | noop | connreq | discreq => cases m <;> exact of_decide_eq_true hw

/-- Settles O37: the slot has its turn, and the notification is sent. -/
theorem unresolvedFrameAnswersAResetNotification :
    Obligations.UnresolvedFrameAnswersAResetNotification := by
  intro chan pay i ct m s j rest hi hpay hfree hj hreg
  obtain ⟨hct, -⟩ := eq_frameKind_of_sequenced hi
  refine ⟨sendReset Config.params chan
      (turned Config.params j rest ⟨chan, ct.byte, (AType.data m).byte, pay⟩ s), ?_,
    storedIn_turned hpay, congrArg (sendReset Config.params chan) (turned_eq ..)⟩
  rw [exec_sequenced hi, receiveFrame_unresolved m hct hfree hj hreg, turned]

/-- A sequenced frame for a registered channel goes to the sequence dispatch (rule R163 step 4). -/
theorem exec_resolved (hi : (i, ct, m) ∈ sequencedFrames chan pay) (hfree : s.free = j :: rest)
    (hj : j < s.hdr.length) (hreg : Registered Config.params chan s) :
    exec i s = .next (sequenceDispatch Config.params j m
      (stored Config.params j rest ⟨chan, ct.byte, (AType.data m).byte, pay⟩ s)) := by
  obtain ⟨hct, -⟩ := eq_frameKind_of_sequenced hi
  rw [exec_sequenced hi, receiveFrame_sequenced m hct hfree hj hreg]

/-! ### The dispatch table's other rows (rule R164) -/

theorem sequenceDispatch_duplicate (j : Nat) (hrx : s.rxState = .bufret m) :
    sequenceDispatch P j m s = poolRelease j s := by
  simp [sequenceDispatch, hrx]

theorem sequenceDispatch_missed (j : Nat) (hrx : s.rxState = .await (!m)) :
    sequenceDispatch P j m s = sendAck P m (poolRelease j s) := by
  simp [sequenceDispatch, hrx]

theorem sequenceDispatch_unexpected (j : Nat) (hrx : s.rxState = .bufret (!m)) :
    sequenceDispatch P j m s = linkReset P .desync s := by
  simp only [sequenceDispatch, hrx, Bool.eq_not_self, if_false]
  rfl

theorem stored_rxState (P : Params) (j : Nat) (rest : List Nat) (f : RawFrame) (s : State) :
    (stored P j rest f s).rxState = s.rxState := by
  rw [stored_eq]

/-- Settles O38: in both rows the slot has its turn; in the second its ACK is sent. -/
theorem duplicateIsIgnoredAndMissedAckIsRepeated :
    Obligations.DuplicateIsIgnoredAndMissedAckIsRepeated := by
  intro chan pay i ct m s j rest hi hpay hfree hj hreg
  rw [exec_resolved hi hfree hj hreg]
  constructor
  · intro hrx
    rw [sequenceDispatch_duplicate j ((stored_rxState ..).trans hrx)]
    exact ⟨_, rfl, storedIn_turned hpay, turned_eq ..⟩
  · intro hrx
    rw [sequenceDispatch_missed j ((stored_rxState ..).trans hrx)]
    exact ⟨_, rfl, storedIn_turned hpay, congrArg (sendAck Config.params m) (turned_eq ..)⟩

/-- Settles O39: the link is reset in the state that holds the frame. -/
theorem unexpectedSequenceResetsTheLink : Obligations.UnexpectedSequenceResetsTheLink := by
  intro chan pay i ct m s j rest hi hpay hfree hj hreg hrx
  rw [exec_resolved hi hfree hj hreg,
    sequenceDispatch_unexpected j ((stored_rxState ..).trans hrx)]
  exact ⟨_, rfl, storedIn_stored _ j rest _ s hpay, linkReset_stored_eq ..⟩

/-! ### An awaited frame (rules R164, R165) -/

/-- The state in which an awaited frame is delivered: it is stored, and not yet acknowledged. -/
def accepted (P : Params) (j : Nat) (rest : List Nat) (m : Bool) (f : RawFrame) (s : State) :
    State :=
  { stored P j rest f s with rxState := .bufret m }

theorem accepted_eq (P : Params) (j : Nat) (rest : List Nat) (m : Bool) (f : RawFrame) (s : State) :
    accepted P j rest m f s =
      { s with
        hdr := (accepted P j rest m f s).hdr
        pay := (accepted P j rest m f s).pay
        free := rest
        rxState := .bufret m
        accLen := 0
        accOvf := false } :=
  congrArg (fun u : State => { u with rxState := .bufret m }) (stored_eq P j rest f s)

theorem chanOf_accepted (c : Nat) :
    chanOf c (accepted P j rest m f s) = chanOf c s := by
  rw [accepted_eq]
  rfl

theorem storedIn_accepted (m : Bool) (hf : f.pay.length ≤ P.maxpay) :
    StoredIn P j f.pay.length s (accepted P j rest m f s) :=
  storedIn_stored P j rest f s hf

theorem slotOf_accepted (m : Bool) (hj : j < s.hdr.length) :
    slotOf j (accepted P j rest m ⟨chan, ct.byte, aty.byte, pay⟩ s) =
      { chan := chan, ctype := ct, atype := aty, len := pay.length } :=
  (slotOf_stored_self ⟨chan, ct.byte, aty.byte, pay⟩ hj).trans (by simp)

theorem exec_awaited (hi : (i, ct, m) ∈ sequencedFrames chan pay) (hfree : s.free = j :: rest)
    (hj : j < s.hdr.length) (hreg : Registered Config.params chan s) (hrx : s.rxState = .await m) :
    exec i s = .next (deliver Config.params j
      (accepted Config.params j rest m ⟨chan, ct.byte, (AType.data m).byte, pay⟩ s)) := by
  rw [exec_resolved hi hfree hj hreg]
  simp only [sequenceDispatch, stored_rxState, hrx, if_true, accepted]

/-- `Deliver` of a payload frame (rule R165). -/
theorem deliver_noop {h : SlotHeader} (hslot : slotOf j s = h) (hct : h.ctype = .noop) :
    deliver P j s =
      if decide (0 < h.len) && acceptsPayload (chanOf h.chan.toNat s) then
        setChan h.chan.toNat
          { chanOf h.chan.toNat s with inq := (chanOf h.chan.toNat s).inq ++ [j] } s
      else channelRelease P j s := by
  simp only [deliver, hslot, hct]

/-- Settles O40: the accepted frame's slot joins the queue. -/
theorem payloadIsDeliveredToItsChannel : Obligations.PayloadIsDeliveredToItsChannel := by
  intro chan pay m s j rest hpos hpay hfree hj hreg hrx hstate
  have haccepts : acceptsPayload (chanOf chan.toNat s) = true := by
    simpa [acceptsPayload] using hstate
  rw [exec_awaited (mem_sequencedFrames_noop chan pay m) hfree hj hreg hrx,
    deliver_noop (slotOf_accepted m hj) rfl]
  simp only [chanOf_accepted, haccepts, hpos, decide_true, Bool.and_self, if_true]
  exact ⟨_, rfl, storedIn_accepted m hpay, slotOf_accepted m hj, payload_stored _ j rest _ s hpay,
    congrArg (setChan _ _) (accepted_eq ..)⟩

/-- An accepted frame's slot is released, which sends its ACK (rule R166). -/
theorem channelRelease_accepted_eq (P : Params) (j : Nat) (rest : List Nat) (m : Bool)
    (f : RawFrame) (s : State) :
    channelRelease P j (accepted P j rest m f s) =
      { s with
        hdr := (accepted P j rest m f s).hdr
        pay := (accepted P j rest m f s).pay
        free := rest ++ [j]
        rxState := .await (!m)
        wireTx := s.wireTx ++ [ackMessage P m]
        accLen := 0
        accOvf := false } :=
  congrArg (channelRelease P j) (accepted_eq P j rest m f s)

/-- Settles O41: a frame without payload is not delivered, nor is one for a channel that accepts none. -/
theorem undeliverablePayloadIsAcknowledged : Obligations.UndeliverablePayloadIsAcknowledged := by
  intro chan pay m s j rest hpay hfree hj hreg hrx hdrop
  have hrefused : (decide (0 < pay.length) && acceptsPayload (chanOf chan.toNat s)) = false := by
    rcases hdrop with rfl | hstate | hstate
    · rfl
    · simp [acceptsPayload, hstate]
    · simp [acceptsPayload, hstate]
  rw [exec_awaited (mem_sequencedFrames_noop chan pay m) hfree hj hreg hrx,
    deliver_noop (slotOf_accepted m hj) rfl]
  simp only [chanOf_accepted, hrefused, Bool.false_eq_true, if_false]
  exact ⟨_, rfl, storedIn_accepted m hpay, channelRelease_accepted_eq ..⟩

/-! ### The second copy of a frame (rule R167) -/

/-- An accepted frame is held until its slot's return, or acknowledged at once (rules R165, R166). -/
theorem deliver_rxState (j : Nat) (hrx : s.rxState = .bufret m) :
    (deliver P j s).rxState = .bufret m ∨ (deliver P j s).rxState = .await (!m) := by
  have hrelease : ∀ {u : State}, u.rxState = .bufret m →
      (channelRelease P j u).rxState = .await (!m) := fun hu => by
    rw [channelRelease_bufret j hu, toggle]
  unfold deliver
  dsimp only
  split
  · split
    · exact .inl hrx
    · exact .inr (hrelease hrx)
  · exact .inr (hrelease (by simp [hrx]))
  · exact .inr (hrelease (by simp [hrx]))
  · exact .inl hrx

/-- A frame that finds no free slot is lost (rule R252). -/
theorem exec_sequenced_of_nil (hi : (i, ct, m) ∈ sequencedFrames chan pay) (hfree : s.free = []) :
    exec i s = .next (accClear s) := by
  rw [exec_sequenced hi, receiveFrame, receive, poolAcquire_eq_none.mpr hfree]

/-- Every listed slot is in the table. -/
theorem OwnershipWf.lt_of_free (h : OwnershipWf P s) (hfree : s.free = j :: rest) :
    j < s.hdr.length := by
  rw [h.hdr_length]
  exact List.mem_range.mp (h.one_holder.mem_iff.mp (by simp [holders, hfree]))

/-- An instruction but POLL, which also empties `WIRE_RX`, keeps the ownership invariant. -/
theorem ownershipWf_of_exec (h : OwnershipWf Config.params s) (hi : i ≠ .poll)
    (hst : exec i s = .next t) : OwnershipWf Config.params t := by
  have hu := updates_of_exec hst
  rw [started_of_ne_poll hi] at hu
  exact owned_nil_iff.mp (hu.owned (owned_nil_iff.mpr h))

theorem registered_of_exec (hi : (i, ct, m) ∈ sequencedFrames chan pay)
    (hreg : Registered Config.params chan s) (hst : exec i s = .next t) :
    Registered Config.params chan t := by
  obtain ⟨hlt, hs⟩ := hreg
  refine ⟨hlt, (onlyOpenAndCloseChangeRegistration i s t hst ?_ ?_ _).trans hs⟩
  all_goals
    rintro ch rfl
    simp [sequencedFrames] at hi

/-- Settles O44: by then the first copy was held or acknowledged, and the second is in one of the two rows
that only drop it; unless it finds no free slot, as it does if the first found none. -/
theorem secondCopyOfAFrameIsNotDelivered : Obligations.SecondCopyOfAFrameIsNotDelivered := by
  intro chan pay i ct m s t u hi hw hown hreg hrx hst hst'
  cases hfree' : t.free with
  | nil =>
    obtain rfl := Host.Outcome.next.inj ((exec_sequenced_of_nil hi hfree').symm.trans hst')
    exact ⟨rfl, fun hrx' => ⟨hrx', rfl⟩⟩
  | cons k q =>
    obtain ⟨j, rest, hfree⟩ : ∃ j rest, s.free = j :: rest := by
      refine List.exists_cons_of_ne_nil fun hnil => ?_
      obtain rfl := Host.Outcome.next.inj ((exec_sequenced_of_nil hi hnil).symm.trans hst)
      simp [hnil] at hfree'
    have hown' : OwnershipWf Config.params t :=
      ownershipWf_of_exec hown (by rintro rfl; simp [sequencedFrames] at hi) hst
    have hrx' : t.rxState = .bufret m ∨ t.rxState = .await (!m) := by
      obtain rfl := Host.Outcome.next.inj
        ((exec_awaited hi hfree (hown.lt_of_free hfree) hreg hrx).symm.trans hst)
      exact deliver_rxState j rfl
    obtain ⟨hduplicate, hmissed⟩ :=
      duplicateIsIgnoredAndMissedAckIsRepeated chan pay i ct m t k q hi
        (length_le_of_sequenced hi hw) hfree' (hown'.lt_of_free hfree')
        (registered_of_exec hi hreg hst)
    rcases hrx' with hbufret | hawait
    · obtain ⟨v, hv, -, hdropped⟩ := hduplicate hbufret
      obtain rfl : v = u := Host.Outcome.next.inj (hv.symm.trans hst')
      rw [hdropped]
      exact ⟨rfl, fun _ => ⟨hbufret, rfl⟩⟩
    · obtain ⟨v, hv, -, hdropped⟩ := hmissed hawait
      obtain rfl : v = u := Host.Outcome.next.inj (hv.symm.trans hst')
      rw [hdropped]
      exact ⟨rfl, fun hbufret => by simp [hawait] at hbufret⟩

/-! ### What is sent, and the free slot behind it (rule R169) -/

/-- Nothing was sent since `WIRE_TX` held `ws`, or a slot is free. -/
def FreeIfSent (ws : List (List Byte)) (s : State) : Prop := s.wireTx = ws ∨ s.free ≠ []

variable {ws : List (List Byte)}

/-- A released slot is the newest free one (rules R131, R166). -/
theorem channelRelease_free (P : Params) (j : Nat) (s : State) :
    (channelRelease P j s).free = s.free ++ [j] := by
  unfold channelRelease
  dsimp only
  split <;> rfl

/-- An acknowledgment takes no slot from the pool (rule R143). -/
theorem txAck_free_ne_nil (m : Bool) (h : s.free ≠ []) : (txAck P m s).free ≠ [] := by
  unfold txAck
  split
  · split
    · simp
    · exact h
  · exact h
  · exact h

theorem freeIfSent_poolRelease (j : Nat) (s : State) : FreeIfSent ws (poolRelease j s) :=
  .inr (by simp)

theorem freeIfSent_channelRelease (j : Nat) (s : State) :
    FreeIfSent ws (channelRelease P j s) :=
  .inr (by simp [channelRelease_free])

theorem freeIfSent_linkReset (cause : ResetCause) (s : State) :
    FreeIfSent ws (linkReset P cause s) :=
  .inr (by have := P.rxReserve_lt; simp only [linkReset_free, ne_eq, List.range_eq_nil]; omega)

/-- A frame that is not delivered is released before anything is sent (rules R165, R166). -/
protected theorem FreeIfSent.deliver (h : FreeIfSent ws s) (j : Nat) :
    FreeIfSent ws (deliver P j s) := by
  unfold deliver
  dsimp only
  split
  · split
    · exact h
    · exact freeIfSent_channelRelease _ _
  · exact freeIfSent_channelRelease _ _
  · exact freeIfSent_channelRelease _ _
  · exact h

protected theorem FreeIfSent.sequenceDispatch (h : FreeIfSent ws s) (j : Nat) (m : Bool) :
    FreeIfSent ws (sequenceDispatch P j m s) := by
  unfold sequenceDispatch
  split
  · split
    · refine FreeIfSent.deliver ?_ j
      exact h
    · exact .inr (by simp)
  · split
    · exact freeIfSent_poolRelease _ _
    · exact freeIfSent_linkReset _ _

protected theorem FreeIfSent.dispatch (h : FreeIfSent ws s) (j : Nat) :
    FreeIfSent ws (dispatch P j s) := by
  unfold dispatch
  dsimp only
  split
  · exact freeIfSent_linkReset _ _
  · split
    · exact .inr (txAck_free_ne_nil _ (by simp))
    · split
      · exact h.sequenceDispatch j _
      · exact .inr (by simp)

theorem freeIfSent_receive (P : Params) (v : Option RawFrame) (s : State) :
    FreeIfSent s.wireTx (receive P v s) := by
  rcases receive_cases P v s with ⟨-, he⟩ | ⟨j, rest, -, -, he⟩ | ⟨j, rest, f, -, -, he⟩
  · exact he ▸ .inl rfl
  · exact he ▸ .inl rfl
  · rw [he]
    exact FreeIfSent.dispatch (.inl (by simp)) j

protected theorem FreeIfSent.releaseAll (l : List Nat) :
    ∀ {s : State}, FreeIfSent ws s → FreeIfSent ws (releaseAll P l s) := by
  induction l with
  | nil => exact id
  | cons j l ih => exact fun _ => ih (freeIfSent_channelRelease j _)

/-- A channel command that answers `INVALID` sends nothing (rule R207). -/
theorem freeIfSent_chanCheck {c : Nat} {b : Bool} (h : FreeIfSent s.wireTx t) :
    FreeIfSent s.wireTx (chanCheck P c b s t) := by
  rcases chanCheck_cases P c b s t with he | ⟨-, -, he⟩
  · exact he ▸ .inl rfl
  · rwa [he]

theorem freeIfSent_closeOp (P : Params) (ch : Byte) (s : State) :
    FreeIfSent s.wireTx (closeOp P ch s) :=
  freeIfSent_chanCheck (FreeIfSent.releaseAll (chanOf ch.toNat s).inq (.inl (by simp)))

theorem freeIfSent_readOp (P : Params) (ch : Byte) (s : State) :
    FreeIfSent s.wireTx (readOp P ch s) := by
  refine freeIfSent_chanCheck ?_
  split
  · exact .inl rfl
  · split
    · exact freeIfSent_channelRelease _ _
    · exact .inl rfl

/-- A received frame's meaning is `receiveFrame` of some frame (log entry 20). -/
theorem exec_of_isFrame (hi : isFrame P i) :
    ∃ f, ∀ s, exec i s = .next (receiveFrame Config.params f s) := by
  obtain ⟨r, hr⟩ := hi
  cases i with
  | nop | poll | openChan | closeChan | connect | disconnect | write | flush | read | peek | avail
  | status | linkstat | reserved0D | reserved0E0F | reserved101F | reserved203F | reserved407F
  | reserved80FF => simp [encode] at hr
  | _ => exact ⟨_, fun _ => rfl⟩

/-- Settles O58: each of them releases its slot before it sends, or sends nothing. -/
theorem ackIsSentOnlyWithAFreeSlot : Obligations.AckIsSentOnlyWithAFreeSlot := by
  intro i s t hst hsent hkind
  have hfree : FreeIfSent s.wireTx t := by
    rcases hkind with hframe | ⟨ch, rfl⟩ | ⟨ch, rfl⟩
    · obtain ⟨f, hexec⟩ := exec_of_isFrame hframe
      obtain rfl := Host.Outcome.next.inj ((hexec s).symm.trans hst)
      exact freeIfSent_receive _ _ s
    · obtain rfl : readOp Config.params ch s = t := Host.Outcome.next.inj hst
      exact freeIfSent_readOp _ ch s
    · obtain rfl : closeOp Config.params ch s = t := Host.Outcome.next.inj hst
      exact freeIfSent_closeOp _ ch s
  exact hfree.resolve_left hsent

end Sys2Proof.Machine
end

section
/-!
PROOFS. The channel multiplexer (43_channel_mux.md). A command on a registered id passes the channel check
(`Registered.chanCheck`), and is then an equation for each state of its channel. What the commands share is
said once: that a slot is submitted to an idle or to a waiting transmitter (`submit_rdy`, `submit_wait`),
that a byte joins an assembly buffer (`appended`), and that slots go back to the pool.
-/

namespace Sys2Proof.Machine

variable {P : Params} {s t : State} {ch v : Byte} {c a i : Nat} {m n : Bool} {rest : List Nat}
  {k : Channel}

/-! ### The channel check (rule R207) -/

protected theorem Registered.chanCheck (h : Registered P ch s) (b : Bool) (t : State) :
    chanCheck P ch.toNat b s t = t :=
  chanCheck_registered h.1 h.2

theorem Registered.lt (h : Registered P ch s) : ch.toNat < s.ch.length := lt_of_reg h.2

theorem chanCheck_of_not_registered (h : ¬Registered P ch s) (t : State) :
    chanCheck P ch.toNat true s t = respond .invalid 0 s := by
  rcases chanCheck_cases P ch.toNat true s t with hinvalid | ⟨hlt, hreg, -⟩
  · exact hinvalid
  · exact absurd ⟨hlt, hreg rfl⟩ h

/-- Settles O16: each of the eight commands is what the channel check leaves of it. -/
theorem unregisteredChannelAnswersInvalid : Obligations.UnregisteredChannelAnswersInvalid := by
  intro ch v sec s i hi hreg
  simp only [List.mem_cons, List.not_mem_nil, or_false] at hi
  rcases hi with rfl | rfl | rfl | rfl | rfl | rfl | rfl | rfl
  all_goals exact congrArg Host.Outcome.next (chanCheck_of_not_registered hreg _)

/-- Settles O17: the check, then the channel's registration. -/
theorem openRegistersTheChannel : Obligations.OpenRegistersTheChannel := by
  intro ch s
  refine congrArg Host.Outcome.next (?_ : openOp Config.params ch s = _)
  rcases Nat.lt_or_ge ch.toNat Config.params.nchan with hlt | hge
  · rw [openOp, chanCheck_any hlt]
    simp only [Nat.not_le.mpr hlt, false_or]
    split <;> rfl
  · rw [if_pos (.inl hge)]
    exact chanCheck_out_of_range hge

/-! ### The commands' operations -/

theorem exec_close (ch : Byte) (s : State) :
    exec (.closeChan ch) s = .next (closeOp Config.params ch s) := rfl
theorem exec_connect (ch : Byte) (sec : BitVec 16) (s : State) :
    exec (.connect ch sec) s = .next (connectOp Config.params ch sec s) := rfl
theorem exec_disconnect (ch : Byte) (s : State) :
    exec (.disconnect ch) s = .next (disconnectOp Config.params ch s) := rfl
theorem exec_write (ch v : Byte) (s : State) :
    exec (.write ch v) s = .next (writeOp Config.params ch v s) := rfl
theorem exec_flush (ch : Byte) (s : State) :
    exec (.flush ch) s = .next (flushOp Config.params ch s) := rfl
theorem exec_read (ch : Byte) (s : State) :
    exec (.read ch) s = .next (readOp Config.params ch s) := rfl
theorem exec_peek (ch : Byte) (s : State) :
    exec (.peek ch) s = .next (peekOp Config.params ch s) := rfl
theorem exec_avail (ch : Byte) (s : State) :
    exec (.avail ch) s = .next (availOp Config.params ch s) := rfl

/-! ### Answers (rules R62, R94, R95) -/

/-- A byte answered by READ or PEEK is zero-extended. -/
theorem respond_byteData (v : Byte) (s : State) :
    respond .success (byteData v) s = { s with rsp := BitVec.ofNat 32 v.toNat } := by
  have hdata : (byteData v).toNat = v.toNat := by
    rw [byteData, BitVec.toNat_setWidth]
    have := v.isLt
    omega
  rw [respond, rspWord_success hdata]

/-- Settles O19: the channel's state, and then the pool, decide. -/
theorem handshakeCommandsAnswerByChannelState :
    Obligations.HandshakeCommandsAnswerByChannelState := by
  intro ch sec s hreg
  rw [exec_connect, exec_disconnect, connectOp, disconnectOp, hreg.chanCheck, hreg.chanCheck]
  refine ⟨fun hstate => ?_, fun hstate => ?_, fun hstate => ?_, fun hstate => ?_,
    fun hstate hfree => ?_, fun hstate hfree => ?_⟩
  · rw [hstate]
    exact ⟨rfl, rfl⟩
  · rw [hstate]
    exact ⟨rfl, rfl⟩
  · rw [hstate]
    rfl
  · rw [hstate]
    rfl
  · rw [hstate, txAcquire_eq_none.mpr hfree]
    rfl
  · rw [hstate, txAcquire_eq_none.mpr hfree]
    rfl

/-- Settles O22: the byte meets no connection, or no slot. -/
theorem writeIsTurnedAway : Obligations.WriteIsTurnedAway := by
  intro ch v s hreg
  rw [exec_write, writeOp, hreg.chanCheck]
  refine ⟨fun hstate => ?_, fun hstate hasm hfree => ?_⟩
  · rw [if_pos hstate]
    rfl
  · rw [if_neg (not_not.mpr hstate), hasm, txAcquire_eq_none.mpr hfree]
    rfl

/-- Settles O27: PEEK and AVAIL are answers alone. -/
theorem peekAndAvailOnlyReport : Obligations.PeekAndAvailOnlyReport := by
  intro ch s hreg
  rw [exec_peek, exec_avail, peekOp, availOp, hreg.chanCheck, hreg.chanCheck]
  refine ⟨fun hinq => ?_, fun h rest hinq => ?_, fun n hsum hn => ?_⟩
  · rw [hinq]
    rfl
  · rw [hinq]
    exact congrArg Host.Outcome.next (respond_byteData _ s)
  · have hbytes : availBytes (chanOf ch.toNat s) s = n := by
      rw [availBytes, ← hsum, Nat.add_sub_cancel_left]
    rw [hbytes, respond, rspWord_success (BitVec.toNat_ofNat ..), Nat.mod_eq_of_lt hn]

/-! ### Slots that go back to the pool (rules R131, R166) -/

theorem releaseAsm_eq (asm : Option Nat) (s : State) :
    releaseAsm asm s = { s with free := s.free ++ asm.toList } := by
  cases asm with
  | none => simp [releaseAsm]
  | some a => rfl

/-- With no unread slot or no frame to acknowledge, a channel's slots go back and nothing is sent. -/
theorem releaseAll_quiet {l : List Nat} (asm : Option Nat) (h : l = [] ∨ s.rxState.phase = false) :
    releaseAll P l (releaseAsm asm s) = { s with free := s.free ++ asm.toList ++ l } := by
  rw [releaseAsm_eq]
  rcases h with rfl | hrx
  · simp [releaseAll]
  · exact releaseAll_await P l _ hrx

/-- The first unread slot released acknowledges the frame, the others find it acknowledged. -/
theorem releaseAll_bufret {l : List Nat} (asm : Option Nat) (hl : l ≠ [])
    (hrx : s.rxState = .bufret m) :
    releaseAll P l (releaseAsm asm s) =
      { s with
        free := s.free ++ asm.toList ++ l
        rxState := .await (!m)
        wireTx := s.wireTx ++ [ackMessage P m] } := by
  rw [releaseAsm_eq]
  cases l with
  | nil => exact absurd rfl hl
  | cons j l =>
    rw [releaseAll, channelRelease_bufret (s := { s with free := s.free ++ asm.toList }) j hrx,
      releaseAll_await P l _ rfl]
    simp [toggle]

/-- Settles O18: the assembly slot, and behind it the unread ones, go back. -/
theorem closeReturnsEverySlot : Obligations.CloseReturnsEverySlot := by
  intro ch s hreg
  rw [exec_close, closeOp, hreg.chanCheck]
  refine ⟨fun hquiet => ?_, fun n hinq hrx => ?_⟩
  · rw [releaseAll_quiet _ hquiet]
    rfl
  · rw [releaseAll_bufret _ hinq hrx]
    rfl

theorem readOp_cons {j : Nat} (hreg : Registered P ch s)
    (hinq : (chanOf ch.toNat s).inq = j :: rest) :
    readOp P ch s = respond .success (byteData (memRead P j (chanOf ch.toNat s).rdOff s))
      (if (chanOf ch.toNat s).rdOff + 1 = (slotOf j s).len then
        setChan ch.toNat { chanOf ch.toNat s with inq := rest, rdOff := 0 } (channelRelease P j s)
      else
        setChan ch.toNat { chanOf ch.toNat s with rdOff := (chanOf ch.toNat s).rdOff + 1 } s) := by
  rw [readOp, hreg.chanCheck, ← channelRelease_setChan]
  dsimp only
  rw [hinq]

/-- Settles O26: the byte is read first; a slot that it ends is released. -/
theorem readConsumesOneByte : Obligations.ReadConsumesOneByte := by
  intro ch s hreg
  rw [exec_read]
  refine ⟨fun hinq => ?_, fun h rest hinq hmore => ?_, fun h rest n hinq hlast hrx => ?_,
    fun h rest n hinq hlast hrx => ?_⟩
  · rw [readOp, hreg.chanCheck, hinq]
    rfl
  · rw [readOp_cons hreg hinq, if_neg hmore]
    exact congrArg Host.Outcome.next (respond_byteData _ _)
  · rw [readOp_cons hreg hinq, if_pos hlast, channelRelease_bufret h hrx]
    exact congrArg Host.Outcome.next (respond_byteData _ _)
  · rw [readOp_cons hreg hinq, if_pos hlast, channelRelease_await h hrx]
    exact congrArg Host.Outcome.next (respond_byteData _ _)

/-! ### Submission (rules R140, R142) -/

/-- The only queued slot `i`, whose header is `d`, was sent as `DATA(n)`. -/
def sent (P : Params) (i : Nat) (d : SlotHeader) (n : Bool) (s : State) : State :=
  { s with
    hdr := s.hdr.set i { d with atype := .data n }
    txq := [i]
    txT0 := clip P s.now
    txRetries := 0
    txState := .wait n
    wireTx := s.wireTx ++
      [message P (raw P d.chan d.ctype (.data n) (payload P i d.len s))] }

theorem sent_txState (P : Params) (i : Nat) (d : SlotHeader) (n : Bool) (s : State) :
    (sent P i d n s).txState = .wait n := rfl

/-- An idle transmitter, whose queue is empty by rule R29, sends the slot at once. -/
theorem submit_rdy {d : SlotHeader} (hn : s.txState = .rdy n) (hq : s.txq = [])
    (hi : i < s.hdr.length) (hd : slotOf i s = d) : submit P i s = sent P i d n s := by
  have hidle : s.txState.phase = false := by rw [hn]; rfl
  have hhead : s.txq ++ [i] = [i] := by rw [hq]; rfl
  rw [submit_idle i hidle, hhead]
  exact startSend_of_head (s := { s with txq := [i] }) rfl hi hd hn

theorem submit_wait (i : Nat) (hw : s.txState = .wait n) :
    submit P i s = { s with txq := s.txq ++ [i] } :=
  submit_waiting i (by rw [hw]; rfl)

theorem submitAsm_wait (asm : Option Nat) (hw : s.txState = .wait n) :
    submitAsm P asm s = { s with txq := s.txq ++ asm.toList } := by
  cases asm with
  | none => simp [submitAsm]
  | some a => exact submit_wait a hw

/-- Settles O25: with an assembly buffer FLUSH is its submission. -/
theorem flushSubmitsTheAssemblyBuffer : Obligations.FlushSubmitsTheAssemblyBuffer := by
  intro ch s hreg
  rw [exec_flush, flushOp, hreg.chanCheck]
  refine ⟨fun hasm => ?_, fun a n hasm ha hn hq => ?_, fun a n hasm hw => ?_⟩
  · rw [hasm]
    rfl
  · rw [hasm]
    dsimp only
    rw [submit_rdy hn hq ha rfl]
    rfl
  · rw [hasm]
    dsimp only
    rw [submit_wait a hw]
    rfl

/-! ### The handshake requests (rules R193, R194) -/

theorem txAcquire_of_spare (hfree : s.free = i :: rest) (hspare : P.rxReserve ≤ rest.length) :
    txAcquire P s = some (i, { s with free := rest }) :=
  txAcquire_of_cons (by rw [hfree]; exact Nat.lt_succ_of_le hspare) hfree

/-- A request that an idle transmitter sends; it carries no payload. -/
theorem submit_request_rdy (ct : CType) (k : Channel) (hn : s.txState = .rdy n) (hq : s.txq = [])
    (hi : i < s.hdr.length) :
    submit P i (setChan c k (setSlot i (freshHeader ch ct) s)) =
      { s with
        hdr := s.hdr.set i { chan := ch, ctype := ct, atype := .data n, len := 0 }
        ch := s.ch.set c k
        txq := [i]
        txT0 := clip P s.now
        txRetries := 0
        txState := .wait n
        wireTx := s.wireTx ++ [message P (raw P ch ct (.data n) [])] } := by
  rw [submit_setChan, submit_rdy (s := setSlot i (freshHeader ch ct) s) hn hq (by simpa using hi)
    (slotOf_setSlot_self _ hi)]
  simp [sent, setChan, setSlot, freshHeader, payload]

/-- A request that waits behind a frame in flight. -/
theorem submit_request_wait (ct : CType) (k : Channel) (hw : s.txState = .wait n) :
    submit P i (setChan c k (setSlot i (freshHeader ch ct) s)) =
      { s with
        hdr := s.hdr.set i { chan := ch, ctype := ct, atype := .data false, len := 0 }
        ch := s.ch.set c k
        txq := s.txq ++ [i] } :=
  submit_wait i hw

/-- Settles O20: the request is submitted, and the timeout does not wrap. -/
theorem connectSendsARequest : Obligations.ConnectSendsARequest := by
  intro ch sec s i rest hreg hstate hfree hspare hi
  rw [exec_connect, connectOp, hreg.chanCheck, hstate, txAcquire_of_spare hfree hspare,
    connectTicks_eq]
  dsimp only
  refine ⟨fun n hn hq => ?_, fun n hw => ?_⟩
  · rw [submit_request_rdy (s := { s with free := rest }) _ _ hn hq hi]
    rfl
  · rw [submit_request_wait (s := { s with free := rest }) _ _ hw]
    rfl

/-- Settles O21: the assembly buffer is submitted first, so that the request finds the transmitter
waiting. -/
theorem disconnectSendsPendingBytesThenARequest :
    Obligations.DisconnectSendsPendingBytesThenARequest := by
  intro ch s i rest hreg hstate hfree hspare hi
  rw [exec_disconnect, disconnectOp, hreg.chanCheck, hstate, txAcquire_of_spare hfree hspare]
  dsimp only
  refine ⟨fun n hn hq hasm => ?_, fun n a hn hq hasm ha => ?_, fun n hw => ?_⟩
  · rw [hasm, submitAsm, submit_request_rdy (s := { s with free := rest }) _ _ hn hq hi]
    rfl
  · rw [hasm, submitAsm, submit_rdy (s := { s with free := rest }) hn hq ha rfl,
      submit_request_wait _ _ (sent_txState ..)]
    rfl
  · rw [submitAsm_wait (s := { s with free := rest }) _ hw,
      submit_request_wait (s := { s with free := rest, txq := _ }) _ _ hw]
    rfl

/-! ### A byte that joins an assembly buffer (rule R195) -/

/-- The byte is stored behind the last one of slot `a`. -/
def appended (P : Params) (a : Nat) (v : Byte) (s : State) : State :=
  setSlot a { slotOf a s with len := (slotOf a s).len + 1 } (memWrite P a (slotOf a s).len v s)

theorem length_hdr_appended (P : Params) (a : Nat) (v : Byte) (s : State) :
    (appended P a v s).hdr.length = s.hdr.length :=
  List.length_set ..

/-- A further header of the same slot replaces this one. -/
theorem set_hdr_appended (P : Params) (a : Nat) (v : Byte) (s : State) (d : SlotHeader) :
    (appended P a v s).hdr.set a d = s.hdr.set a d :=
  List.set_set ..

theorem setChan_chanOf (hc : c < s.ch.length) : setChan c (chanOf c s) s = s := by
  simp [setChan, chanOf, hc]

theorem setChan_setChan (k k' : Channel) (s : State) :
    setChan c k' (setChan c k s) = setChan c k' s := by
  simp [setChan]

theorem appendByte_short (hc : c < s.ch.length) (hasm : (chanOf c s).asm = some a)
    (hlen : (slotOf a s).len + 1 ≠ P.maxpay) : appendByte P c a v s = appended P a v s := by
  rw [appendByte, if_neg hlen, ← hasm]
  exact setChan_chanOf (s := appended P a v s) hc

theorem appendByte_full (hlen : (slotOf a s).len + 1 = P.maxpay) :
    appendByte P c a v s =
      setChan c { chanOf c s with asm := none } (submit P a (appended P a v s)) :=
  if_pos hlen

/-- It does not matter which assembly buffer the channel held before. -/
theorem appendByte_setAsm (hc : c < s.ch.length) (asm : Option Nat) :
    appendByte P c a v (setChan c { chanOf c s with asm := asm } s) = appendByte P c a v s := by
  rw [← appendByte_detached (s := setChan c _ s) (by simpa using hc), chanOf_setChan_self _ hc,
    setChan_setChan, appendByte_detached hc]

/-- In a state with the memory of `appended`, the byte reads back and every other byte reads as before. -/
theorem read_of_pay_appended (hpay : t.pay = (appended P a v s).pay)
    (hepoch : t.epoch = (appended P a v s).epoch) :
    memRead P a (slotOf a s).len t = v ∧ ∀ x, x ≠ slotAddr a (slotOf a s).len →
      Memory.read (payBlank P t) t.pay x = Memory.read (payBlank P s) s.pay x := by
  have hread : ∀ x, Memory.read (payBlank P t) t.pay x =
      if x = slotAddr a (slotOf a s).len then v else Memory.read (payBlank P s) s.pay x := by
    intro x
    rw [hpay, payBlank, hepoch]
    exact Memory.read_write _ _ _ _ _
  exact ⟨(hread _).trans (if_pos rfl), fun x hx => (hread x).trans (if_neg hx)⟩

theorem payload_appended (P : Params) (a : Nat) (v : Byte) (s : State) :
    payload P a ((slotOf a s).len + 1) (appended P a v s) =
      payload P a (slotOf a s).len s ++ [v] := by
  obtain ⟨hlast, hothers⟩ := read_of_pay_appended (P := P) (a := a) (v := v) (s := s) rfl rfl
  rw [payload, List.range_succ, List.map_append, List.map_singleton, hlast]
  refine congrArg (· ++ [v]) (List.map_congr_left fun o ho => hothers _ ?_)
  have := List.mem_range.mp ho
  unfold slotAddr
  omega

/-- WRITE on a channel with an assembly buffer (rule R195). -/
theorem exec_write_asm (hreg : Registered Config.params ch s)
    (hstate : (chanOf ch.toNat s).cstate = .connected) (hasm : (chanOf ch.toNat s).asm = some a) :
    exec (.write ch v) s =
      .next (respond .success 0 (appendByte Config.params ch.toNat a v s)) := by
  rw [exec_write, writeOp, hreg.chanCheck, if_neg (not_not.mpr hstate), hasm]

/-- WRITE on a channel without one takes a slot for it. -/
theorem exec_write_fresh (hreg : Registered Config.params ch s)
    (hstate : (chanOf ch.toNat s).cstate = .connected) (hasm : (chanOf ch.toNat s).asm = none)
    (hfree : s.free = i :: rest) (hspare : Config.params.rxReserve ≤ rest.length) :
    exec (.write ch v) s =
      .next (respond .success 0 (appendByte Config.params ch.toNat i v
        (setSlot i (freshHeader ch .noop) { s with free := rest }))) := by
  rw [exec_write, writeOp, hreg.chanCheck, if_neg (not_not.mpr hstate), hasm,
    txAcquire_of_spare hfree hspare]

/-- Settles O23: the buffer keeps its place in the channel; a new one may be given to it first. -/
theorem writeAppendsAByte : Obligations.WriteAppendsAByte := by
  intro ch v s hreg hstate
  refine ⟨fun a hasm hlen => ?_, fun i rest hasm hfree hspare => ?_⟩
  · rw [exec_write_asm hreg hstate hasm, appendByte_short hreg.lt hasm hlen]
    exact ⟨_, rfl, rfl, read_of_pay_appended rfl rfl⟩
  · obtain ⟨u, hu⟩ : ∃ u, u = setChan ch.toNat { chanOf ch.toNat s with asm := some i }
        (setSlot i (freshHeader ch .noop) { s with free := rest }) := ⟨_, rfl⟩
    have hchan : chanOf ch.toNat u = { chanOf ch.toNat s with asm := some i } :=
      hu ▸ chanOf_setChan_self _ hreg.lt
    have hreg' : Registered Config.params ch u := ⟨hreg.1, by rw [hchan]; exact hreg.2⟩
    have hset : appendByte Config.params ch.toNat i v u = appendByte Config.params ch.toNat i v
        (setSlot i (freshHeader ch .noop) { s with free := rest }) :=
      hu ▸ appendByte_setAsm (s := setSlot i _ { s with free := rest }) hreg.lt (some i)
    calc exec (.write ch v) s
      _ = .next (respond .success 0 (appendByte Config.params ch.toNat i v u)) := by
          rw [exec_write_fresh hreg hstate hasm hfree hspare, hset]
      _ = exec (.write ch v) u :=
          (exec_write_asm hreg' (by rw [hchan]; exact hstate) (by rw [hchan])).symm
      _ = _ := by rw [hu]; rfl

/-- Settles O24: the filled buffer is submitted, and its payload ends with the byte. -/
theorem writeSubmitsTheFullFrame : Obligations.WriteSubmitsTheFullFrame := by
  intro ch v s a hreg hstate hasm hfull ha
  have hslot : slotOf a (appended Config.params a v s) =
      { slotOf a s with len := (slotOf a s).len + 1 } := slotOf_setSlot_self _ ha
  rw [exec_write_asm hreg hstate hasm, appendByte_full hfull]
  refine ⟨fun n hn hq => ⟨_, rfl, ?_, read_of_pay_appended (by simp) (by simp)⟩,
    fun n hw => ⟨_, rfl, ?_, read_of_pay_appended (by simp) (by simp)⟩⟩
  · rw [submit_rdy (s := appended Config.params a v s) hn hq (by rwa [length_hdr_appended]) hslot,
      sent, payload_appended, set_hdr_appended, ← hfull]
    rfl
  · rw [submit_wait (s := appended Config.params a v s) a hw, ← hfull]
    rfl

end Sys2Proof.Machine
end

section
/-!
PROOFS. How a channel's state changes (43_channel_mux.md R201, R203, R206). The peer's handshake requests are
each an update of one channel (`chanPeerCR_eq`, `chanPeerDR_connected`), made before the frame's slot is
released. That only CONNECT and DISCONNECT enter a handshake state is kept operation by operation
(`StartsOnly`): whatever else changes a channel's state leaves it `DISC` or `CONNECTED`.
-/

namespace Sys2Proof.Machine

variable {P : Params} {s s₀ t : State} {c i j : Nat} {m : Bool}
  {h : Option (Nat × CState)} {k : Channel}

/-! ### The peer's requests (rules R201, R203) -/

theorem mem_sequencedFrames_connreq (chan : Byte) (pay : List Byte) (m : Bool) :
    ((if m then .data1Connreq chan pay else .data0Connreq chan pay, .connreq, m) :
      Instr × CType × Bool) ∈ sequencedFrames chan pay := by
  cases m <;> simp [sequencedFrames]

theorem mem_sequencedFrames_discreq (chan : Byte) (pay : List Byte) (m : Bool) :
    ((if m then .data1Discreq chan pay else .data0Discreq chan pay, .discreq, m) :
      Instr × CType × Bool) ∈ sequencedFrames chan pay := by
  cases m <;> simp [sequencedFrames]

/-- A channel after a connect request was accepted. -/
def peerConnected (k : Channel) : Channel :=
  if k.cstate = .disc ∨ k.cstate = .connPend then
    { k with cstate := .connected, cstat := .success }
  else k

theorem chanPeerCR_eq (hc : c < s.ch.length) :
    chanPeerCR c s = setChan c (peerConnected (chanOf c s)) s := by
  unfold chanPeerCR peerConnected
  split
  all_goals rename_i hstate
  · rw [if_pos (.inl hstate)]
  · rw [if_pos (.inr hstate)]
  all_goals
    rw [hstate, if_neg (by decide)]
    exact (setChan_chanOf hc).symm

/-- A connected channel after a disconnect request was accepted. -/
def peerDisconnected (k : Channel) : Channel :=
  { k with cstate := .disc, cstat := .peerDisconnected, asm := none }

/-- The unsent bytes' slot goes back to the pool. -/
theorem chanPeerDR_connected (hstate : (chanOf c s).cstate = .connected) :
    chanPeerDR c s =
      setChan c (peerDisconnected (chanOf c s))
        { s with free := s.free ++ (chanOf c s).asm.toList } := by
  rw [chanPeerDR, hstate, releaseAsm_setChan, releaseAsm_eq]
  rfl

theorem chanPeerDR_other (hstate : (chanOf c s).cstate ≠ .connected) : chanPeerDR c s = s := by
  unfold chanPeerDR
  dsimp only
  split
  · rename_i hconnected
    exact absurd hconnected hstate
  all_goals rfl

theorem deliver_connreq {d : SlotHeader} (hslot : slotOf j s = d) (hct : d.ctype = .connreq) :
    deliver P j s = channelRelease P j (chanPeerCR d.chan.toNat s) := by
  simp only [deliver, hslot, hct]

theorem deliver_discreq {d : SlotHeader} (hslot : slotOf j s = d) (hct : d.ctype = .discreq) :
    deliver P j s = channelRelease P j (chanPeerDR d.chan.toNat s) := by
  simp only [deliver, hslot, hct]

/-- Settles O42: the channel is replaced, and the frame's slot released. -/
theorem connectRequestConnectsTheChannel : Obligations.ConnectRequestConnectsTheChannel := by
  intro chan pay m s j rest hpay hfree hj hreg hrx
  rw [exec_awaited (mem_sequencedFrames_connreq chan pay m) hfree hj hreg hrx,
    deliver_connreq (slotOf_accepted m hj) rfl]
  dsimp only
  rw [chanPeerCR_eq (by rw [accepted_eq]; exact hreg.lt), chanOf_accepted, channelRelease_setChan]
  exact ⟨_, rfl, storedIn_accepted m hpay,
    congrArg (setChan _ _) (channelRelease_accepted_eq ..)⟩

/-- Settles O43: a connected channel gives its assembly slot back before the frame's. -/
theorem disconnectRequestDisconnectsTheChannel :
    Obligations.DisconnectRequestDisconnectsTheChannel := by
  intro chan pay m s j rest hpay hfree hj hreg hrx
  rw [exec_awaited (mem_sequencedFrames_discreq chan pay m) hfree hj hreg hrx,
    deliver_discreq (slotOf_accepted m hj) rfl]
  dsimp only
  by_cases hstate : (chanOf chan.toNat s).cstate = .connected
  · rw [chanPeerDR_connected (by rwa [chanOf_accepted]), chanOf_accepted, if_pos hstate,
      if_pos hstate]
    exact ⟨_, rfl, storedIn_accepted m hpay, congrArg
      (fun u : State => channelRelease Config.params j
        (setChan chan.toNat (peerDisconnected (chanOf chan.toNat s))
          { u with free := u.free ++ (chanOf chan.toNat s).asm.toList })) (accepted_eq ..)⟩
  · have hsame : s.ch.set chan.toNat (chanOf chan.toNat s) = s.ch :=
      congrArg State.ch (setChan_chanOf hreg.lt)
    rw [chanPeerDR_other (by rwa [chanOf_accepted]), if_neg hstate, if_neg hstate, hsame]
    exact ⟨_, rfl, storedIn_accepted m hpay, channelRelease_accepted_eq ..⟩

/-! ### Who starts a handshake (rule R206) -/

/-- Since `s₀` every channel's state is the same, or became `DISC` or `CONNECTED`, or is the one that `h`
names for the channel. -/
def StartsOnly (h : Option (Nat × CState)) (s₀ s : State) : Prop :=
  ∀ c, (chanOf c s).cstate = (chanOf c s₀).cstate ∨ (chanOf c s).cstate = .disc ∨
    (chanOf c s).cstate = .connected ∨ h = some (c, (chanOf c s).cstate)

/-- An update that changes no channel. -/
theorem StartsOnly.congr (hs : StartsOnly h s₀ s) (hch : t.ch = s.ch := by simp) :
    StartsOnly h s₀ t := fun c => by
  rw [chanOf, hch]
  exact hs c

protected theorem StartsOnly.setChan (hs : StartsOnly h s₀ s)
    (hk : k.cstate = (chanOf c s).cstate ∨ k.cstate = .disc ∨ k.cstate = .connected ∨
      h = some (c, k.cstate)) : StartsOnly h s₀ (setChan c k s) := by
  intro d
  by_cases hd : c = d
  · subst hd
    rcases Nat.lt_or_ge c s.ch.length with hlt | hge
    · rw [chanOf_setChan_self k hlt]
      rcases hk with hsame | hk
      · rw [hsame]
        exact hs c
      · exact .inr hk
    · rw [setChan, List.set_eq_of_length_le hge]
      exact hs c
  · rw [chanOf_setChan_ne k s hd]
    exact hs d

theorem chanOf_linkReset (P : Params) (cause : ResetCause) (c : Nat) (s : State) :
    chanOf c (linkReset P cause s) = linkResetChannel (chanOf c s) := by
  simp only [chanOf, linkReset_ch, List.getD_eq_getElem?_getD, List.getElem?_map]
  cases s.ch[c]? <;> rfl

protected theorem StartsOnly.linkReset (hs : StartsOnly h s₀ s) (cause : ResetCause) :
    StartsOnly h s₀ (linkReset P cause s) := by
  intro c
  rw [chanOf_linkReset, linkResetChannel]
  split
  · exact .inr (.inl rfl)
  · exact hs c

protected theorem StartsOnly.respond (hs : StartsOnly h s₀ s) (st : Status) (d : BitVec 16) :
    StartsOnly h s₀ (respond st d s) :=
  hs.congr

protected theorem StartsOnly.submit (hs : StartsOnly h s₀ s) (i : Nat) :
    StartsOnly h s₀ (submit P i s) :=
  hs.congr

protected theorem StartsOnly.channelRelease (hs : StartsOnly h s₀ s) (i : Nat) :
    StartsOnly h s₀ (channelRelease P i s) :=
  hs.congr

/-- An acknowledgment ends a handshake, or tells its channel nothing (rules R143, R202, R204). -/
protected theorem StartsOnly.ackEvent (hs : StartsOnly h s₀ s) (ct : CType) (c : Nat) :
    StartsOnly h s₀ (ackEvent P ct c s) := by
  cases ct with
  | noop | reset => exact hs
  | connreq =>
    simp only [ackEvent, chanCrAcked]
    split
    · exact hs.setChan (.inr (.inr (.inl rfl)))
    · exact hs
  | discreq =>
    simp only [ackEvent, chanDrAcked]
    split
    · exact hs.setChan (.inr (.inl rfl))
    · exact hs

protected theorem StartsOnly.txAck (hs : StartsOnly h s₀ s) (m : Bool) :
    StartsOnly h s₀ (txAck P m s) := by
  unfold txAck
  split
  · rename_i n i rest _ _
    split
    · have hfreed : StartsOnly h s₀
          (poolRelease i { s with txq := rest, txState := .rdy (toggle m) }) := hs.congr
      exact (hfreed.ackEvent _ _).congr (sendNext_ch ..)
    · exact hs
  · exact hs
  · exact hs

protected theorem StartsOnly.chanPeerDR (hs : StartsOnly h s₀ s) (c : Nat) :
    StartsOnly h s₀ (chanPeerDR c s) := by
  by_cases hstate : (chanOf c s).cstate = .connected
  · rw [chanPeerDR_connected hstate]
    exact StartsOnly.setChan hs.congr (.inr (.inl rfl))
  · rwa [chanPeerDR_other hstate]

protected theorem StartsOnly.chanPeerCR (hs : StartsOnly h s₀ s) (c : Nat) :
    StartsOnly h s₀ (chanPeerCR c s) := by
  unfold chanPeerCR
  split
  · exact hs.setChan (.inr (.inr (.inl rfl)))
  · exact hs.setChan (.inr (.inr (.inl rfl)))
  · exact hs
  · exact hs

protected theorem StartsOnly.deliver (hs : StartsOnly h s₀ s) (i : Nat) :
    StartsOnly h s₀ (deliver P i s) := by
  unfold deliver
  dsimp only
  split
  · split
    · exact hs.setChan (.inl rfl)
    · exact hs.congr
  · exact (hs.chanPeerCR _).channelRelease i
  · exact (hs.chanPeerDR _).channelRelease i
  · exact hs

protected theorem StartsOnly.sequenceDispatch (hs : StartsOnly h s₀ s) (i : Nat) (m : Bool) :
    StartsOnly h s₀ (sequenceDispatch P i m s) := by
  unfold sequenceDispatch
  split
  · split
    · exact StartsOnly.deliver hs.congr i
    · exact hs.congr
  · split
    · exact hs.congr
    · exact StartsOnly.linkReset hs.congr _

protected theorem StartsOnly.dispatch (hs : StartsOnly h s₀ s) (i : Nat) :
    StartsOnly h s₀ (dispatch P i s) := by
  unfold dispatch
  dsimp only
  split
  · exact StartsOnly.linkReset hs.congr _
  · split
    · exact StartsOnly.txAck hs.congr _
    · split
      · exact hs.sequenceDispatch i _
      · exact hs.congr

/-- No received message starts a handshake. -/
protected theorem StartsOnly.receive (hs : StartsOnly h s₀ s) (v : Option RawFrame) :
    StartsOnly h s₀ (receive P v s) := by
  rcases receive_cases P v s with ⟨-, he⟩ | ⟨i, rest, -, -, he⟩ | ⟨i, rest, f, -, -, he⟩
  · exact he ▸ hs.congr
  · exact he ▸ hs.congr
  · exact he ▸ StartsOnly.dispatch hs.congr i

protected theorem StartsOnly.rxByte (hs : StartsOnly h s₀ s) (b : Byte) :
    StartsOnly h s₀ (rxByte P b s) := by
  unfold rxByte
  split
  · exact hs.receive _
  · split
    · exact hs.congr
    · split <;> exact hs.congr

protected theorem StartsOnly.rxBytes (bs : List Byte) :
    ∀ {s : State}, StartsOnly h s₀ s → StartsOnly h s₀ (rxBytes P bs s) := by
  induction bs with
  | nil => exact id
  | cons b bs ih => exact fun hs => ih (hs.rxByte b)

protected theorem StartsOnly.txTimer (hs : StartsOnly h s₀ s) : StartsOnly h s₀ (txTimer P s) := by
  unfold txTimer
  split
  · split
    · exact hs.linkReset _
    · exact hs.congr
  · exact hs

/-- A handshake timer ends a handshake or changes nothing (rule R205). -/
protected theorem StartsOnly.chanTimer (hs : StartsOnly h s₀ s) (c : Nat) :
    StartsOnly h s₀ (chanTimer P c s) := by
  have hexpire : StartsOnly h s₀
      (setChan c { chanOf c s with cstate := .disc, cstat := .pending } s) :=
    hs.setChan (.inr (.inl rfl))
  unfold chanTimer
  dsimp only
  split
  · split
    · split
      · exact hexpire
      · exact hs
    · split
      · exact hexpire
      · exact hs
    · exact hs
    · exact hs
  · exact hs

protected theorem StartsOnly.chanTimers (cs : List Nat) :
    ∀ {s : State}, StartsOnly h s₀ s → StartsOnly h s₀ (chanTimers P cs s) := by
  induction cs with
  | nil => exact id
  | cons c cs ih => exact fun hs => ih (hs.chanTimer c)

protected theorem StartsOnly.pollOp (hs : StartsOnly h s₀ s) : StartsOnly h s₀ (pollOp P s) :=
  (StartsOnly.chanTimers _ (StartsOnly.rxBytes s.wireRx hs.congr).txTimer).respond _ _

protected theorem StartsOnly.chanCheck {b : Bool} (hs : StartsOnly h s₀ s)
    (ht : StartsOnly h s₀ t) : StartsOnly h s₀ (chanCheck P c b s t) := by
  rcases chanCheck_cases P c b s t with he | ⟨-, -, he⟩
  · exact he ▸ hs.respond _ _
  · rwa [he]

protected theorem StartsOnly.openOp (hs : StartsOnly h s₀ s) (ch : Byte) :
    StartsOnly h s₀ (openOp P ch s) := by
  refine hs.chanCheck ?_
  split
  · exact hs.respond _ _
  · exact (hs.setChan (.inr (.inl rfl))).respond _ _

protected theorem StartsOnly.closeOp (hs : StartsOnly h s₀ s) (ch : Byte) :
    StartsOnly h s₀ (closeOp P ch s) :=
  hs.chanCheck ((StartsOnly.setChan hs.congr (.inr (.inl rfl))).respond _ _)

protected theorem StartsOnly.txAcquire (hs : StartsOnly h s₀ s)
    (ha : txAcquire P s = some (i, t)) : StartsOnly h s₀ t := by
  obtain ⟨-, rest, -, rfl⟩ := txAcquire_eq_some.mp ha
  exact hs.congr

/-- CONNECT enters `CONN_PEND` on its channel (rule R193). -/
theorem startsOnly_connectOp (P : Params) (ch : Byte) (sec : BitVec 16)
    (hs : StartsOnly (some (ch.toNat, .connPend)) s₀ s) :
    StartsOnly (some (ch.toNat, .connPend)) s₀ (connectOp P ch sec s) := by
  refine hs.chanCheck ?_
  split
  · exact hs.respond _ _
  · exact hs.respond _ _
  · exact hs.respond _ _
  · split
    · exact hs.respond _ _
    · rename_i i t ha
      rw [submit_setChan]
      exact (StartsOnly.setChan (hs.txAcquire ha).congr (.inr (.inr (.inr rfl)))).respond _ _

/-- DISCONNECT enters `DISC_PEND` on its channel (rule R194). -/
theorem startsOnly_disconnectOp (P : Params) (ch : Byte)
    (hs : StartsOnly (some (ch.toNat, .discPend)) s₀ s) :
    StartsOnly (some (ch.toNat, .discPend)) s₀ (disconnectOp P ch s) := by
  refine hs.chanCheck ?_
  split
  · exact hs.respond _ _
  · exact hs.respond _ _
  · exact hs.respond _ _
  · split
    · exact hs.respond _ _
    · rename_i i t ha
      rw [submit_setChan]
      exact (StartsOnly.setChan (hs.txAcquire ha).congr (.inr (.inr (.inr rfl)))).respond _ _

protected theorem StartsOnly.appendByte (hs : StartsOnly h s₀ s) (c a : Nat) (v : Byte) :
    StartsOnly h s₀ (appendByte P c a v s) := by
  have hslot : StartsOnly h s₀ (appended P a v s) := hs.congr rfl
  unfold appendByte
  dsimp only
  split
  · rw [← submit_setChan]
    refine StartsOnly.submit (hslot.setChan ?_) a
    exact .inl rfl
  · exact hslot.setChan (.inl rfl)

protected theorem StartsOnly.writeOp (hs : StartsOnly h s₀ s) (ch v : Byte) :
    StartsOnly h s₀ (writeOp P ch v s) := by
  refine hs.chanCheck ?_
  split
  · exact hs.respond _ _
  · split
    · exact (hs.appendByte _ _ v).respond _ _
    · split
      · exact hs.respond _ _
      · rename_i i t ha
        exact (StartsOnly.appendByte (hs.txAcquire ha).congr _ i v).respond _ _

protected theorem StartsOnly.flushOp (hs : StartsOnly h s₀ s) (ch : Byte) :
    StartsOnly h s₀ (flushOp P ch s) := by
  refine hs.chanCheck ?_
  split
  · exact hs.respond _ _
  · rw [← submit_setChan]
    refine StartsOnly.respond (StartsOnly.submit (hs.setChan ?_) _) _ _
    exact .inl rfl

protected theorem StartsOnly.readOp (hs : StartsOnly h s₀ s) (ch : Byte) :
    StartsOnly h s₀ (readOp P ch s) := by
  refine hs.chanCheck ?_
  split
  · exact hs.respond _ _
  · refine StartsOnly.respond ?_ _ _
    split
    · refine StartsOnly.channelRelease (hs.setChan ?_) _
      exact .inl rfl
    · exact hs.setChan (.inl rfl)

protected theorem StartsOnly.peekOp (hs : StartsOnly h s₀ s) (ch : Byte) :
    StartsOnly h s₀ (peekOp P ch s) := by
  obtain ⟨st, d, he⟩ := (observes_peek P ch).answers s
  exact he ▸ hs.respond st d

/-- The handshake state an instruction may enter, and its channel (rules R193, R194). -/
def handshakeOf : Instr → Option (Nat × CState)
  | .connect ch _ => some (ch.toNat, .connPend)
  | .disconnect ch => some (ch.toNat, .discPend)
  | _ => none

theorem exec_startsOnly (s : State) (i : Instr) :
    ∃ t, exec i s = .next t ∧ StartsOnly (handshakeOf i) s t := by
  have hs : ∀ {h}, StartsOnly h s s := fun _ => .inl rfl
  cases i with
  | poll => exact ⟨_, rfl, hs.pollOp⟩
  | openChan ch => exact ⟨_, rfl, hs.openOp ch⟩
  | closeChan ch => exact ⟨_, rfl, hs.closeOp ch⟩
  | connect ch sec => exact ⟨_, rfl, startsOnly_connectOp _ ch sec hs⟩
  | disconnect ch => exact ⟨_, rfl, startsOnly_disconnectOp _ ch hs⟩
  | write ch v => exact ⟨_, rfl, hs.writeOp ch v⟩
  | flush ch => exact ⟨_, rfl, hs.flushOp ch⟩
  | read ch => exact ⟨_, rfl, hs.readOp ch⟩
  | peek ch => exact ⟨_, rfl, hs.peekOp ch⟩
  | avail | status => exact ⟨_, rfl, hs.chanCheck (hs.respond _ _)⟩
  | nop | linkstat | reserved0D | reserved0E0F | reserved101F | reserved203F | reserved407F
  | reserved80FF => exact ⟨_, rfl, hs.respond _ _⟩
  | _ => exact ⟨_, rfl, hs.receive _⟩

/-- CONNECT alone is named with `CONN_PEND`. -/
theorem handshakeOf_connPend {i : Instr} (hi : handshakeOf i = some (c, .connPend)) :
    ∃ ch sec, ch.toNat = c ∧ i = .connect ch sec := by
  cases i with
  | connect ch sec => exact ⟨ch, sec, by simpa [handshakeOf] using hi, rfl⟩
  | _ => simp [handshakeOf] at hi

/-- DISCONNECT alone is named with `DISC_PEND`. -/
theorem handshakeOf_discPend {i : Instr} (hi : handshakeOf i = some (c, .discPend)) :
    ∃ ch, ch.toNat = c ∧ i = .disconnect ch := by
  cases i with
  | disconnect ch => exact ⟨ch, by simpa [handshakeOf] using hi, rfl⟩
  | _ => simp [handshakeOf] at hi

/-- Settles O54: a handshake state that is entered is the one named with the instruction. -/
theorem handshakesStartByCommandAlone : Obligations.HandshakesStartByCommandAlone := by
  intro i s t c hst
  obtain ⟨u, hu, hstarts⟩ := exec_startsOnly s i
  obtain rfl : u = t := Host.Outcome.next.inj (hu.symm.trans hst)
  have hc := hstarts c
  constructor
  · intro hnew hold
    rw [hnew] at hc
    refine handshakeOf_connPend ?_
    simpa [hold.symm] using hc
  · intro hnew hold
    rw [hnew] at hc
    refine handshakeOf_discPend ?_
    simpa [hold.symm] using hc

end Sys2Proof.Machine
end

section
/-!
PROOFS. POLL, the idle commands and the step (44_poll_and_status.md). POLL is taken apart into its phases.
A start marker makes it the POLL that finds the accumulator cleared (`exec_poll_som`). What the timers do
is `pollTimers_eq`: the retransmission timer (`txTimer_idle`, `txTimer_expired`), then every channel's own.
-/

namespace Sys2Proof.Machine

variable {P : Params} {s t : State} {h j : Nat} {n : Bool} {rest : List Nat}

/-! ### The step and the idle commands (rules R230, R231, R234) -/

/-- Settles O7: a command word decodes as `decodeCommand` says, and that is what a step executes. -/
theorem stepRunsTheDecodedCommand : Obligations.StepRunsTheDecodedCommand := by
  intro s i hdecode
  obtain rfl : decodeCommand s.cmd = i := Except.ok.inj hdecode
  rfl

/-- The opcode is the word's upper byte (rule R91). -/
theorem opField_toNat (w : Word32) : (opField w).toNat = w.toNat / 2 ^ 24 := by
  have hw := w.isLt
  rw [opField, BitVec.extractLsb'_toNat, Nat.shiftRight_eq_div_pow]
  omega

theorem exec_nop (s : State) : exec .nop s = .next { s with rsp := 0 } := rfl

/-- The rows of the opcodes above `0x0D` all answer `INVALID` (rule R234). -/
theorem exec_reservedRow (op : Byte) (s : State) :
    exec (reservedRow op) s = .next { s with rsp := 0x04000000 } := by
  unfold reservedRow
  split_ifs <;> rfl

/-- A word with a reserved opcode answers `INVALID`, whatever its other fields (rules R105, R234). -/
theorem exec_decodeCommand_reserved {w : Word32} (hop : 0x0D ≤ (opField w).toNat) (s : State) :
    exec (decodeCommand w) s = .next { s with rsp := 0x04000000 } := by
  rcases Nat.eq_or_lt_of_le hop with heq | hlt
  · have h0D : opField w = 0x0D := BitVec.eq_of_toNat_eq heq.symm
    have hrow : decodeCommand w = .reserved0D := by simp [decodeCommand, h0D]
    rw [hrow]
    rfl
  · rw [← commandWord_fields w, decodeCommand_reserved hlt, exec_reservedRow]

/-- Settles O12: the opcode alone decides which of the two answers a word gets. -/
theorem nopAndReservedOpcodesOnlyAnswer : Obligations.NopAndReservedOpcodesOnlyAnswer := by
  refine ⟨exec_nop, fun s hop => ?_, fun s b c d e f i hi => ?_, fun s hop => ?_⟩
  · have h00 : opField s.cmd = 0x00 := BitVec.eq_of_toNat_eq ((opField_toNat _).trans hop)
    rw [step, decodeCommand, if_pos h00, exec_nop]
  · simp only [List.mem_cons, List.not_mem_nil, or_false] at hi
    rcases hi with rfl | rfl | rfl | rfl | rfl | rfl <;> rfl
  · exact exec_decodeCommand_reserved (by rwa [opField_toNat]) s

/-! ### The received bytes (rules R160, R232) -/

theorem exec_poll_of_nil (hwire : s.wireRx = []) :
    exec .poll s = .next (pollTimers Config.params s) := by
  rw [exec_poll, hwire, rxBytes, ← hwire]

/-- Settles O28: what the received bytes leave holds none, so a POLL there goes on with the timers. -/
theorem pollReceivesBeforeItChecksTimers : Obligations.PollReceivesBeforeItChecksTimers := by
  intro s
  refine ⟨_, exec_poll s, rfl, ?_, exec_poll_of_nil ?_⟩
  · simp [pollTimers]
  · simp

/-- A start marker ahead of the other bytes clears the accumulator, and POLL goes on with those bytes
(rule R160). -/
theorem exec_poll_som {bs : List Byte} (hwire : s.wireRx = Config.params.som :: bs) :
    exec .poll s = exec .poll (accClear { s with wireRx := bs }) := by
  rw [exec_poll, exec_poll, hwire, rxBytes, rxByte_som]
  rfl

/-- Settles O10: behind the start marker, the accumulator holds no byte of the message yet, and its text
follows. -/
theorem pollRunsTheReceivedFrame : Obligations.PollRunsTheReceivedFrame := by
  intro s i r hr hw hwire
  obtain ⟨-, -, hspread⟩ := receivedBytesAccumulateUntilTheTerminator
  obtain ⟨s1, t, hs1, hacc, hexec, hpoll⟩ :=
    hspread (accClear { s with wireRx := Config.params.encode r ++ [Config.params.eom] }) i r
      (Config.params.encode r) hr hw rfl rfl rfl
  refine ⟨s1, t, ?_, hacc, hexec, (exec_poll_som hwire).trans hpoll⟩
  rw [hs1]
  rfl

/-! ### The timers (rules R76, R77, R144, R205) -/

/-- Nothing is in flight, or its time has not come (rule R144). -/
theorem txTimer_idle (hidle : s.txState.phase = false ∨ elapsed P s s.txT0 < P.tRetx) :
    txTimer P s = s := by
  refine if_neg fun hdue => ?_
  simp only [expired, Bool.and_eq_true, decide_eq_true_eq] at hdue
  obtain ⟨hphase, hexpired⟩ := hdue
  rcases hidle with hrdy | hearly
  · simp [hrdy] at hphase
  · omega

/-- The frame in flight is due (rule R144). -/
theorem txTimer_expired (hphase : s.txState.phase = true) (hexpired : P.tRetx ≤ elapsed P s s.txT0) :
    txTimer P s =
      if P.retryMax ≠ 0 ∧ P.retryMax ≤ s.txRetries.toNat then linkReset P .retryCeiling s
      else retransmit P s := by
  simp [txTimer, hphase, expired, hexpired, atCeiling]

/-- The count saturates at 255 (rule R77). -/
theorem bumpRetries_eq (n : BitVec 8) : bumpRetries n = BitVec.ofNat 8 (min (n.toNat + 1) 255) := by
  unfold bumpRetries
  split
  · rename_i hmax
    subst hmax
    rfl
  · rename_i hmax
    have hne : n.toNat ≠ 255 := fun heq => hmax (BitVec.eq_of_toNat_eq heq)
    have hlt := n.isLt
    have hone : (1 : BitVec 8).toNat = 1 := rfl
    apply BitVec.eq_of_toNat_eq
    simp only [BitVec.toNat_add, BitVec.toNat_ofNat, hone]
    omega

theorem retransmit_of_cons (hq : s.txq = h :: rest) :
    retransmit P s =
      { s with
        wireTx := s.wireTx ++ [slotMessage P h s]
        txT0 := clip P s.now
        txRetries := BitVec.ofNat 8 (min (s.txRetries.toNat + 1) 255) } := by
  simp only [retransmit, hq, ← bumpRetries_eq, emitFrame, emit, nowOf]

/-- A channel's timer reads `NOW` alone (rule R205). -/
theorem timedChannel_congr (hnow : t.now = s.now) : timedChannel P t = timedChannel P s := by
  have helapsed : elapsed P t = elapsed P s := by
    funext t0
    rw [elapsed, elapsed, hnow]
  funext k
  simp only [timedChannel, helapsed]

/-- A link reset leaves no handshake under way that could time out (rules R205, R262). -/
theorem timedChannel_linkResetChannel (P : Params) (s : State) (k : Channel) :
    timedChannel P s (linkResetChannel k) = linkResetChannel k := by
  have hdisc : (linkResetChannel k).reg = true → (linkResetChannel k).cstate = .disc := by
    unfold linkResetChannel
    split_ifs with hlinked
    · exact fun _ => rfl
    · intro hreg
      by_contra hne
      exact hlinked (by simpa using ⟨hreg, hne⟩)
  refine if_neg ?_
  rintro ⟨hreg, ⟨hstate, -⟩ | ⟨hstate, -⟩⟩
  · simp [hdisc hreg] at hstate
  · simp [hdisc hreg] at hstate

/-- The timers' phases: what the retransmission timer leaves, with every channel timed (rule R232). -/
theorem pollTimers_eq (hch : (txTimer P s).ch.length = P.nchan) :
    pollTimers P s =
      { txTimer P s with ch := (txTimer P s).ch.map (timedChannel P s), rsp := 0 } := by
  rw [pollTimers, chanTimers_range P _ _ hch.ge, List.take_of_length_le hch.le,
    List.drop_of_length_le hch.le, List.append_nil, timedChannel_congr (txTimer_now P s)]
  rfl

/-- Settles O29: the retransmission timer's three cases, each with every channel timed behind it. -/
theorem pollWithNothingReceivedRunsTheTimers : Obligations.PollWithNothingReceivedRunsTheTimers := by
  intro s hwire hch
  rw [exec_poll_of_nil hwire]
  refine ⟨fun hidle => ?_, fun h rest hphase hexpired hq => congrArg Host.Outcome.next ?_⟩
  · have htimer := txTimer_idle hidle
    rw [pollTimers_eq (by rwa [htimer]), htimer]
  · have htimer := txTimer_expired hphase hexpired
    split_ifs at htimer ⊢ with hceiling
    · rw [pollTimers_eq (by simpa [htimer] using hch), htimer]
      simp [linkReset, timedChannel_linkResetChannel]
    · rw [retransmit_of_cons hq] at htimer
      rw [pollTimers_eq (by rwa [htimer]), htimer]

/-! ### An acknowledgment ahead of the timer (rules R143, R232) -/

/-- With nothing queued behind it, the awaited acknowledgment of the head leaves nothing in flight, and
sends nothing. -/
theorem txAck_last (hw : s.txState = .wait n) (hq : s.txq = [h]) :
    (txAck P n s).wireTx = s.wireTx ∧ (txAck P n s).txState = .rdy (!n) ∧ (txAck P n s).txq = [] := by
  rw [txAck_matching hw hq]
  simp [sendNext, toggle]

/-- With nothing in flight, the timers send nothing and leave the transmitter as it is. -/
theorem pollTimers_idle (hidle : s.txState.phase = false) :
    (pollTimers P s).wireTx = s.wireTx ∧ (pollTimers P s).txState = s.txState ∧
      (pollTimers P s).txq = s.txq := by
  simp [pollTimers, txTimer_idle (P := P) (.inl hidle)]

/-- A POLL that finds the message of an ACK runs `TxAck` where its frame has taken its slot round `FREE`,
then the timers. -/
theorem exec_poll_ackMessage (hfree : s.free = j :: rest) (hj : j < s.hdr.length)
    (hwire : s.wireRx = [Config.params.som] ++ ackMessage Config.params n) :
    ∃ u, u = { s with
        hdr := u.hdr
        pay := u.pay
        free := rest ++ [j]
        acc := u.acc
        accLen := 0
        accOvf := false
        wireRx := [] } ∧
      exec .poll s = .next (pollTimers Config.params (txAck Config.params n u)) := by
  obtain ⟨s1, t, hs1, -, hexec, hpoll⟩ :=
    pollRunsTheReceivedFrame s (frameKind 0 .noop (.ack n) []) _ (encode_frameKind ..)
      (wellFormed_frameKind (Nat.zero_le _) ..) hwire
  rw [frameKind_ack (by decide), exec_ack (by decide) (by rw [hs1, hfree]) (by rwa [hs1])] at hexec
  obtain rfl := Host.Outcome.next.inj hexec
  refine ⟨_, ?_, hpoll⟩
  rw [turned_eq, hs1]

/-- Settles O30: the POLL runs the ACK frame, and its timers find the transmitter idle. -/
theorem ackInTheSamePollPreventsRetransmission :
    Obligations.AckInTheSamePollPreventsRetransmission := by
  intro s n h j rest hw hq hfree hj hwire
  obtain ⟨u, hu, hpoll⟩ := exec_poll_ackMessage hfree hj hwire
  obtain ⟨hsent, hstate, hqueue⟩ :=
    txAck_last (P := Config.params) (s := u) (by rw [hu, hw]) (by rw [hu, hq])
  obtain ⟨hsent', hstate', hqueue'⟩ :=
    pollTimers_idle (P := Config.params) (s := txAck Config.params n u) (by rw [hstate]; rfl)
  refine ⟨_, hpoll, (hsent'.trans hsent).trans ?_, hstate'.trans hstate, hqueue'.trans hqueue⟩
  rw [hu]

end Sys2Proof.Machine
end

section
/-!
PROOFS. Exceptions (60_exceptions.md). The silent discards are the two ways in which `receive` ends without
a dispatch (`receive_of_nil`, `receive_none`). A link reset resets one channel at a time, and finds nothing
to do on a channel that has been reset (`linkResetChannel_idempotent`).
-/

namespace Sys2Proof.Machine

variable {P : Params} {s : State} {i : Nat} {rest : List Nat} {k : Channel}

/-! ### The silent discards (rules R161, R251, R252) -/

/-- Without a free slot a message is lost, whether it passed its checks or not (rule R252). -/
theorem receive_of_nil (v : Option RawFrame) (hfree : s.free = []) : receive P v s = accClear s := by
  rw [receive, poolAcquire_eq_none.mpr hfree]

/-- A message that failed a check costs its slot one turn of `FREE` (rule R251). -/
theorem receive_none (hfree : s.free = i :: rest) :
    receive P none s = { accClear s with free := rest ++ [i] } := by
  rw [receive, poolAcquire_of_cons hfree]
  rfl

/-- Settles O11: the terminator receives what validation gives, and a frame kind receives its own frame. -/
theorem discardedMessageHasNoOtherEffect : Obligations.DiscardedMessageHasNoOtherEffect := by
  refine ⟨fun P s i rest hfree hinvalid => ?_, fun P s hfree => receive_of_nil _ hfree,
    fun i s hframe hfree => ?_⟩
  · rw [rxMessage, hinvalid, receive_none hfree]
    rfl
  · obtain ⟨f, hexec⟩ := exec_of_isFrame hframe
    rw [hexec, receiveFrame, receive_of_nil _ hfree]
    rfl

/-! ### Link reset (rule R262) -/

/-- A registered channel that is not `DISC` is disconnected; any other keeps its state (rule R262). -/
theorem linkResetChannel_eq (k : Channel) :
    linkResetChannel k =
      if k.reg = true ∧ k.cstate ≠ .disc then
        { k with inq := [], rdOff := 0, asm := none, cstate := .disc, cstat := .peerDisconnected }
      else { k with inq := [], rdOff := 0, asm := none } := by
  simp only [linkResetChannel, Bool.and_eq_true, decide_eq_true_eq]

/-- A channel without slots that is unregistered or `DISC` has nothing to lose. -/
theorem linkResetChannel_of_quiet (hlinked : ¬(k.reg = true ∧ k.cstate ≠ .disc)) (hinq : k.inq = [])
    (hoff : k.rdOff = 0) (hasm : k.asm = none) : linkResetChannel k = k := by
  rw [linkResetChannel_eq, if_neg hlinked, ← hinq, ← hoff, ← hasm]

/-- Either case leaves such a channel. -/
theorem linkResetChannel_idempotent (k : Channel) :
    linkResetChannel (linkResetChannel k) = linkResetChannel k := by
  rw [linkResetChannel_eq k]
  split_ifs with hlinked
  · exact linkResetChannel_of_quiet (fun ⟨_, hne⟩ => hne rfl) rfl rfl rfl
  · exact linkResetChannel_of_quiet hlinked rfl rfl rfl

/-- A second link reset finds every element at its value, and every channel reset. -/
theorem linkReset_linkReset (P : Params) (cause cause' : ResetCause) (s : State) :
    linkReset P cause' (linkReset P cause s) = linkReset P cause s := by
  have hch : (s.ch.map linkResetChannel).map linkResetChannel = s.ch.map linkResetChannel := by
    simp only [List.map_map, List.map_inj_left, Function.comp_apply, linkResetChannel_idempotent,
      implies_true]
  exact congrArg (fun l => { linkReset P cause s with ch := l }) hch

/-- Settles O45: the cause is not read, and the channels are reset one by one. -/
theorem linkResetIsTotalAndIdempotent : Obligations.LinkResetIsTotalAndIdempotent := by
  refine fun P cause cause' s => ⟨rfl, ?_, fun c k hk => ?_, linkReset_linkReset P cause cause' s, rfl⟩
  · rw [linkReset_ch, List.length_map]
  · rw [linkReset_ch, List.getElem?_map, hk, Option.map_some, linkResetChannel_eq]

end Sys2Proof.Machine
end

section
/-!
PROOFS. Reset and hazards (70_reset_and_hazards.md). The reserve is a count of slots: the holders share all
of them (`Busy.slot_count`), the transmit side is within its bound, and the receive half holds at most one
between commands (`ReceiveWf.unread_le_one`).
-/

namespace Sys2Proof.Machine

variable {P : Params} {s : State}

/-- The receive half holds one slot at most, the one of a frame that is not yet acknowledged (rule R34). -/
theorem ReceiveWf.unread_le_one (h : ReceiveWf s) : (unread s).length ≤ 1 := by
  rw [h.unread_count]
  split <;> decide

/-- Between commands the pool, the transmit side and the unread frames make up all slots (rule R23). -/
theorem WellFormedState.slot_count (h : WellFormedState P s) :
    s.free.length + (s.txq.length + (assembling s).length) + (unread s).length = P.nbuf := by
  have hbusy := (busy_nil_iff.mpr h).slot_count
  simp only [List.length_nil] at hbusy
  omega

/-- Settles O52: what the transmit side may not hold is free, but for one unread frame. -/
theorem reserveStaysForTheReceiveHalf : Obligations.ReserveStaysForTheReceiveHalf := by
  intro P s h
  have hslots := h.slot_count
  have hbound := h.transmit.bounded
  have hunread := h.receive.unread_le_one
  omega

/-- Settles O8: every meaning is a sequence of updates of the state (`exec_updates`). -/
theorem everyInstructionHasANextState : Obligations.EveryInstructionHasANextState := by
  intro i s
  obtain ⟨t, hexec, -⟩ := exec_updates s i
  exact ⟨t, hexec⟩

/-- Settles O46: a hardware reset is a power-on (`resetValues_powerOn`) that keeps the wire queues. -/
theorem hardwareResetEstablishesTheResetValues :
    Obligations.HardwareResetEstablishesTheResetValues :=
  ⟨fun P s => ⟨resetValues_hardwareReset P s, rfl, rfl⟩, resetValues_powerOn Config.params⟩

end Sys2Proof.Machine
end
